-- ==== Sys2Proof/Word.lean ====
section
/-! DEFINITION. The two word types of the block: the byte of the registers, the ROM addresses and the operand (R8, R10),
and the 11-bit command word CMD11 (R51). -/

namespace Sys2Proof

/-- A byte, 0 to 255, bit 0 the least significant (R7, R8). -/
abbrev Byte := BitVec 8

/-- A command word as it stands on the `cmd` port: 11 bits, bit 10 the most significant (R50, R51). -/
abbrev Cmd := BitVec 11

end Sys2Proof
end

