-- ==== Sys2Proof/Machine/Result.lean ====
section
/-! DEFINITION. What a step answers: the result pair (`accepted`, `bytes`) of R54 and the output ports that carry it (R50,
R55). -/

namespace Sys2Proof.Machine

/-- The result of one operation, (`accepted`, `bytes`), with `bytes` of 0 to 3 elements (R54). -/
structure Result where
  accepted : Bool
  bytes : List Byte
  deriving DecidableEq, Repr, Inhabited

/-- The result (0, `[]`) of NOP, of RESET and of a hardware reset step (R54). -/
def Result.silent : Result := ⟨false, []⟩

/-- The five output ports of R50. -/
structure Ports where
  accepted : Bool
  rlen : BitVec 2
  r0 : Byte
  r1 : Byte
  r2 : Byte
  deriving DecidableEq, Repr, Inhabited

/-- A result on the ports: `rlen` is the number of its bytes, and an `r` port whose index is not below `rlen` carries 0x00
(R55). -/
def Result.ports (r : Result) : Ports where
  accepted := r.accepted
  rlen := BitVec.ofNat 2 r.bytes.length
  r0 := r.bytes.getD 0 0x00#8
  r1 := r.bytes.getD 1 0x00#8
  r2 := r.bytes.getD 2 0x00#8

end Sys2Proof.Machine
end

