-- ==== Sys2Proof/Config.lean ====
section
/-! DEFINITION. What the spec leaves open. The block has no parameter that an implementation may vary (R6), so the one entry
is the free value of 93_implementation_defined.md U10: the output ports while a reserved command word is presented. -/

namespace Sys2Proof

/-- The output ports while a reserved command word stands on `cmd`: "for a reserved command the outputs are not specified by
this spec" (R55, U10). A free value, a function of what the outputs of the block depend on (R50): the registers `cp`, `lp0`,
`lp1` and the command word (assumption 7). -/
opaque Config.reservedPorts : Byte → Byte → Byte → Cmd → Machine.Ports

end Sys2Proof
end

