-- ==== Sys2Proof/Syntax.lean ====
section
/-! DEFINITION. The operations of the block: one constructor per row of spec/opcode_table.json (R51, R53). -/

namespace Sys2Proof

/-- The operations that a command word can name (R51). The `data` field of every row but CONSUME is ignored (R52), so only
`consume` carries an operand. The two reserved rows are decoded values of their own (R59: "6 and 7 give Reserved"), never
one of the six operations. -/
inductive Instr where
  /-- NOP, the idle operation (R70). -/
  | nop
  /-- CONSUME b, one byte of the document's `consume(bytes)` (R80). -/
  | consume (b : Byte)
  /-- RESET, the document's `reset()` (R71). -/
  | reset
  /-- FINALIZE, the block's part of `finalize(prefixBuffer)` (R90). -/
  | finalize
  /-- BLOCKSIZE, the document's `blockSize()` (R72). -/
  | blockSize
  /-- CODESIZE, the document's `codeSize()` (R73). -/
  | codeSize
  /-- The reserved command words with `op` = 6 (R53). -/
  | reserved6
  /-- The reserved command words with `op` = 7 (R53). -/
  | reserved7
  deriving DecidableEq, Repr

end Sys2Proof
end

