-- ==== Sys2Proof/WellFormed.lean ====
section
/-! DEFINITION. What a legal operation, a legal command number and a legal assembler operand are. -/

namespace Sys2Proof

/-- The operation is one of the six that the spec gives a meaning; the reserved rows are not, and "a host must not present
them" (R53). -/
def Instr.wf : Instr → Bool
  | .nop => true
  | .consume _ => true
  | .reset => true
  | .finalize => true
  | .blockSize => true
  | .codeSize => true
  | .reserved6 => false
  | .reserved7 => false

/-- The number fits the `cmd` port: "there is one instruction length, 11 bits" (R51). -/
def isCommandNumber (w : Nat) : Bool := decide (w < 2048)

/-- The number may stand as the operand of CONSUME in a program text: "a value outside 0 to 255 is an assembly error, not an
operation" (R56). -/
def isByteNumber (n : Nat) : Bool := decide (n ≤ 255)

end Sys2Proof
end

