-- ==== Sys2Proof/Decode.lean ====
section
/-! DEFINITION. The decoder of the 11-bit command word, total and decided by `op` alone (R51, R52, R59), and the encoder
that gives each operation its canonical word (R52). -/

namespace Sys2Proof

/-- `op = cmd[10:8]` (R51). -/
def opField (w : Cmd) : BitVec 3 := w.extractLsb' 8 3

/-- `data = cmd[7:0]` (R51). -/
def dataField (w : Cmd) : Byte := w.extractLsb' 0 8

/-- The decoder of R59. The last line stands for `op` = 111, the one value the lines above it leave. -/
def decode (w : Cmd) : Instr :=
  match opField w with
  | 0b000#3 => .nop
  | 0b001#3 => .consume (dataField w)
  | 0b010#3 => .reset
  | 0b011#3 => .finalize
  | 0b100#3 => .blockSize
  | 0b101#3 => .codeSize
  | 0b110#3 => .reserved6
  | _ => .reserved7

/-- Why a number is no command word. -/
inductive DecodeError where
  /-- The number does not fit the 11 bits of the `cmd` port (R51). Raised by `decodeNumber`; safe, no instruction runs. -/
  | notElevenBits (w : Nat)
  deriving DecidableEq, Repr

/-- The decoder on any number at all: a number of more than 11 bits is rejected by name, every other is decoded. -/
def decodeNumber (w : Nat) : Except DecodeError Instr :=
  if isCommandNumber w then .ok (decode (BitVec.ofNat 11 w)) else .error (.notElevenBits w)

/-- The operation that a row's word of spec/opcode_table.json decodes to. The block has one instruction length and that
length is one 11-bit word, so `nbits` (11 rounded up to whole bytes) selects nothing; bits above the 11 would be no command
word (assumption 15). -/
def decodeTableWord (_nbits w : Nat) : Option Instr :=
  match decodeNumber w with
  | .ok i => some i
  | .error _ => none

/-- The `op` value of the operation's row (R51). -/
def Instr.op : Instr → BitVec 3
  | .nop => 0b000#3
  | .consume _ => 0b001#3
  | .reset => 0b010#3
  | .finalize => 0b011#3
  | .blockSize => 0b100#3
  | .codeSize => 0b101#3
  | .reserved6 => 0b110#3
  | .reserved7 => 0b111#3

/-- The `data` value that the encoder writes: the operand of CONSUME, 0x00 where there is no operand (R52). -/
def Instr.data : Instr → Byte
  | .nop => 0x00#8
  | .consume b => b
  | .reset => 0x00#8
  | .finalize => 0x00#8
  | .blockSize => 0x00#8
  | .codeSize => 0x00#8
  | .reserved6 => 0x00#8
  | .reserved7 => 0x00#8

/-- The canonical command word of an operation: `op` above `data` (R51, R52). Of a reserved row it is the row's `match` word,
which no assembler emits (assumption 14). -/
def encode (i : Instr) : Cmd := i.op ++ i.data

end Sys2Proof
end

