-- ==== Sys2Proof/Machine/Params.lean ====
section
/-! DEFINITION. The constants of the block (R6): sentinel, output mask, block size, code size, selectors. -/

namespace Sys2Proof.Machine

/-- The sentinel (reset) value of `cp` (R13). -/
def sentinelCp : Byte := 0x77#8

/-- The sentinel (reset) value of `lp0` (R13). -/
def sentinelLp0 : Byte := 0x7F#8

/-- The sentinel (reset) value of `lp1` (R13). -/
def sentinelLp1 : Byte := 0x7F#8

/-- The mask that FINALIZE puts on the emitted `lp0`, "top bit forced to 0" (R90, R93). -/
def outputMask : Byte := 0x7F#8

/-- The constant that BLOCKSIZE answers (R17, R72). -/
def blockSizeByte : Byte := 0x01#8

/-- The constant that CODESIZE answers (R17, R73). -/
def codeSizeByte : Byte := 0x03#8

/-- `SEL[0]` to `SEL[6]` in their fixed order (R33). -/
def selectors : List Byte := [0x55#8, 0x33#8, 0x0F#8, 0x00#8, 0xAA#8, 0xCC#8, 0xF0#8]

end Sys2Proof.Machine
end

