-- ==== Sys2Proof/Machine/Tables.lean ====
section
/-! DEFINITION. The two ROMs of the block, as the total constant functions that R36 asks for. -/

namespace Sys2Proof.Machine

/-- The exclusive-or of the 8 bits of `v` (R9, R31). -/
def parity (v : Byte) : Bool :=
  v.getLsbD 0 ^^ v.getLsbD 1 ^^ v.getLsbD 2 ^^ v.getLsbD 3 ^^ v.getLsbD 4 ^^ v.getLsbD 5 ^^ v.getLsbD 6 ^^ v.getLsbD 7

/-- `PAR[v]`, the parity_table ROM: 256 entries of one bit (R30, R31). -/
def parRom (v : Byte) : Bool := parity v

/-- The byte that holds `p` at bit `j` and 0 elsewhere. -/
def bitAt (j : Nat) (p : Bool) : Byte := if p then 1#8 <<< j else 0#8

/-- One bit per selector, from bit `j` upwards: "compute `parity(v AND selector)` and place it at the corresponding bit
position" (R34); the parity is looked up in `PAR`. -/
def packParities (v : Byte) : List Byte → Nat → Byte
  | [], _ => 0#8
  | sel :: sels, j => bitAt j (parRom (v &&& sel)) ||| packParities v sels (j + 1)

/-- `COL[v]`, the column_mask_table ROM: 256 entries of 8 bits, bit 7 always 0 (R30, R34). -/
def colRom (v : Byte) : Byte := packParities v selectors 0

end Sys2Proof.Machine
end

