-- ==== Sys2Proof/Machine/Operands.lean ====
section
/-! DEFINITION. The one operand form of the block: the byte of CONSUME, which is the address of both ROM reads and an
exclusive-or operand as it stands (R37, R52), and its 8-bit complement (R8). -/

namespace Sys2Proof.Machine

/-- `NOT8(b) = b XOR 0xFF` (R8). -/
def not8 (b : Byte) : Byte := b ^^^ 0xFF#8

/-- The effective address of CONSUME's two ROM reads: "the operand itself, unsigned, with no base, index, offset or scaling"
(R37). -/
def romAddress (b : Byte) : Byte := b

/-- The column mask that CONSUME b reads, `COL[b]` (R37, R80). -/
def columnMask (b : Byte) : Byte := colRom (romAddress b)

end Sys2Proof.Machine
end

