-- ==== Sys2Proof/Machine/Flags.lean ====
section
/-! DEFINITION. The block has no flags, condition codes or predicates held as state (R16). Its one condition is the gate
inside CONSUME, a function of the operand that is used in the operation and not kept. -/

namespace Sys2Proof.Machine

/-- The condition `PAR[b] = 1` of CONSUME step 2 (R16, R80). -/
def oddParity (b : Byte) : Bool := parRom (romAddress b)

end Sys2Proof.Machine
end

