-- ==== Sys2Proof/Machine/State.lean ====
section
/-! DEFINITION. The state of one accumulator instance: the three registers, the ghost phase, the steps the host still
presents and the result of the last step; the reasons a step can stop; the state after reset. -/

namespace Sys2Proof.Machine

/-- The document's two logical states, the ghost phase of R18. -/
inductive Phase where
  /-- Just reset, registers at the sentinel. -/
  | ready
  /-- One or more bytes consumed since the last reset. -/
  | accumulating
  deriving DecidableEq, Repr

/-- The inputs of one step (R50): the hardware reset pin and the command port. -/
structure Input where
  /-- `rst`, active high; it overrides `cmd` (R60, R104). -/
  rst : Bool
  /-- `cmd`, the command word (R51). -/
  cmd : Cmd
  deriving DecidableEq, Repr

/-- The state of one instance. `cp`, `lp0` and `lp1` are all the architectural state (R10). The rest is what a model that
steps by itself needs beside them: the ghost `phase` (R18), `inputs`, the steps that the host presents from now on, next one
first (R15, R50; assumption 1), and `result`, what the last step answered (R54; assumption 3). The ROMs are constants and no
state (R36). -/
structure State where
  /-- Column parity (R11). -/
  cp : Byte
  /-- Line parity, complements of the odd-parity bytes; all 8 bits are kept (R12, R21). -/
  lp0 : Byte
  /-- Line parity, the odd-parity bytes (R12). -/
  lp1 : Byte
  /-- Ghost: read by no operation (R18). -/
  phase : Phase
  /-- The model's own: what the host presents, next step first. -/
  inputs : List Input
  /-- The model's own: the result of the last step. -/
  result : Result
  deriving DecidableEq, Repr

/-- The faults of the block: none. "The complete table of exceptions is therefore empty" (R100), so the type has no
constructor and no step can fault (assumption 10). -/
inductive Fault : Type
  deriving DecidableEq, Repr

/-- Why a step has no result. -/
inductive Refusal where
  /-- Raised by `exec` for an instruction that has no meaning yet; safe. No arm of this model uses it. -/
  | notModelled (mnemonic : String)
  /-- Raised by `execReserved6` and `execReserved7`: the command word is reserved, "its decoder returns "reserved" and the step
  function has no result for them" (R53, R102). Safe: no claim can be proved of a run that contains one. -/
  | reservedCommand (op : BitVec 3)
  deriving DecidableEq, Repr

/-- The state right after the hardware reset (R13, R24, R120): the registers at the sentinel, the phase Ready, the result of a
reset step (0, `[]`), and nothing presented yet. -/
def State.reset : State where
  cp := sentinelCp
  lp0 := sentinelLp0
  lp1 := sentinelLp1
  phase := .ready
  inputs := []
  result := Result.silent

end Sys2Proof.Machine
end

