-- ==== Sys2Proof/Machine/Ops.lean ====
section
/-! DEFINITION. The named operations over the state: register writes, the host's input queue, the result, the
(re)initialisation that hardware reset and RESET share, the accumulation of one byte, the code. The block takes no exception
and returns from none (R100, R105), so there is no operation for either. -/

namespace Sys2Proof.Machine

/-- `cp <- v`. -/
def State.setCp (s : State) (v : Byte) : State := { s with cp := v }

/-- `lp0 <- v`, all 8 bits (R21). -/
def State.setLp0 (s : State) (v : Byte) : State := { s with lp0 := v }

/-- `lp1 <- v`. -/
def State.setLp1 (s : State) (v : Byte) : State := { s with lp1 := v }

/-- `phase <- p` (R18). -/
def State.setPhase (s : State) (p : Phase) : State := { s with phase := p }

/-- The step answers `r` (R54). -/
def State.answer (s : State) (r : Result) : State := { s with result := r }

/-- The three registers, the whole architectural state (R10). -/
def State.regs (s : State) : Byte × Byte × Byte := (s.cp, s.lp0, s.lp1)

/-- What the host presents when it has no operation to present: "the host idles by presenting NOP" (R50), the all-zero word
(92_eei_decisions.md D5), with `rst` = 0. -/
def idleInput : Input := ⟨false, 0x000#11⟩

/-- The inputs of the next step: the first of the queue, or the idle step where the queue is empty (assumption 2). -/
def State.nextInput (s : State) : Input :=
  match s.inputs with
  | [] => idleInput
  | i :: _ => i

/-- The queue without the step that is now being taken. -/
def State.popInput (s : State) : State := { s with inputs := s.inputs.tail }

/-- The host presents `i` on the very next step. -/
def State.present (s : State) (i : Input) : State := { s with inputs := i :: s.inputs }

/-- "(Re)initialization": the three registers to the sentinel and the phase to Ready, from any state (R13, R71, R120, R121). -/
def State.initialise (s : State) : State :=
  (((s.setCp sentinelCp).setLp0 sentinelLp0).setLp1 sentinelLp1).setPhase .ready

/-- A step with `rst` = 1, the document's Construct (R120): (re)initialisation, result (0, `[]`), whatever `cmd` holds. -/
def State.hardwareReset (s : State) : State := s.initialise.answer Result.silent

/-- Steps 1 and 2 of CONSUME b (R80): `cp` takes the column mask of every byte, `lp0` and `lp1` the complement and the value
of a byte of odd parity only. -/
def State.accumulate (s : State) (b : Byte) : State :=
  let s₁ := s.setCp (s.cp ^^^ columnMask b)
  if oddParity b then (s₁.setLp0 (s₁.lp0 ^^^ not8 b)).setLp1 (s₁.lp1 ^^^ b) else s₁

/-- The code `[cp, lp0 AND 0x7F, lp1]` (R90): only `lp0` is masked, and only here (R93). -/
def State.code (s : State) : List Byte := [s.cp, s.lp0 &&& outputMask, s.lp1]

end Sys2Proof.Machine
end

