-- ==== Sys2Proof/Machine/Consume.lean ====
section
/-! DEFINITION. The family of 41_consume.md: CONSUME. -/

namespace Sys2Proof.Machine

/-- CONSUME b (R80): the byte is accumulated, the phase becomes Accumulating; result (1, `[]`). It always succeeds (R82). -/
def execConsume (b : Byte) (s : State) : Host.Outcome State Fault Refusal :=
  .next (((s.accumulate b).setPhase .accumulating).answer ⟨true, []⟩)

end Sys2Proof.Machine
end

