-- ==== Sys2Proof/Machine/Control.lean ====
section
/-! DEFINITION. The family of 40_control_and_constants.md: NOP, RESET, BLOCKSIZE, CODESIZE. -/

namespace Sys2Proof.Machine

/-- NOP (R70): registers and phase keep their values; result (0, `[]`). -/
def execNop (s : State) : Host.Outcome State Fault Refusal :=
  .next (s.answer Result.silent)

/-- RESET (R71): registers to the sentinel, phase to Ready; result (0, `[]`). -/
def execReset (s : State) : Host.Outcome State Fault Refusal :=
  .next (s.initialise.answer Result.silent)

/-- BLOCKSIZE (R72): no register is read or written; result (0, `[0x01]`). -/
def execBlockSize (s : State) : Host.Outcome State Fault Refusal :=
  .next (s.answer ⟨false, [blockSizeByte]⟩)

/-- CODESIZE (R73): no register is read or written; result (0, `[0x03]`). -/
def execCodeSize (s : State) : Host.Outcome State Fault Refusal :=
  .next (s.answer ⟨false, [codeSizeByte]⟩)

end Sys2Proof.Machine
end

