-- ==== Sys2Proof/Machine/Finalize.lean ====
section
/-! DEFINITION. The family of 42_finalize.md: FINALIZE. -/

namespace Sys2Proof.Machine

/-- FINALIZE (R90): no register is written and the phase is unchanged; result (0, `[cp, lp0 AND 0x7F, lp1]`). -/
def execFinalize (s : State) : Host.Outcome State Fault Refusal :=
  .next (s.answer ⟨false, s.code⟩)

end Sys2Proof.Machine
end

