-- ==== Sys2Proof/Machine/Reserved.lean ====
section
/-! DEFINITION. The reserved command words of R53. The spec gives them no meaning and forbids taking them for NOP or for any
other operation, so each is refused under its own name. -/

namespace Sys2Proof.Machine

/-- `op` = 6 (R53, R102): no meaning, the step has no result. -/
def execReserved6 (_s : State) : Host.Outcome State Fault Refusal :=
  .refused (.reservedCommand 6#3)

/-- `op` = 7 (R53, R102): no meaning, the step has no result. -/
def execReserved7 (_s : State) : Host.Outcome State Fault Refusal :=
  .refused (.reservedCommand 7#3)

end Sys2Proof.Machine
end

