-- ==== Sys2Proof/Machine/Dispatch.lean ====
section
/-! DEFINITION. One arm per operation (R51's last column; R53 for the two reserved rows). -/

namespace Sys2Proof.Machine

def exec (i : Instr) (s : State) : Host.Outcome State Fault Refusal :=
  match i with
  | .nop => Sys2Proof.Machine.execNop s
  | .consume b => Sys2Proof.Machine.execConsume b s
  | .reset => Sys2Proof.Machine.execReset s
  | .finalize => Sys2Proof.Machine.execFinalize s
  | .blockSize => Sys2Proof.Machine.execBlockSize s
  | .codeSize => Sys2Proof.Machine.execCodeSize s
  | .reserved6 => Sys2Proof.Machine.execReserved6 s
  | .reserved7 => Sys2Proof.Machine.execReserved7 s

end Sys2Proof.Machine
end

