-- ==== Sys2Proof/Machine/Clock.lean ====
section
/-! DEFINITION. One rising edge of the clock with given inputs (R60), and the output ports that stand during it (R50). -/

namespace Sys2Proof.Machine

/-- One step with inputs `i` (R60): `rst` = 1 takes the hardware reset whatever `cmd` holds (R104), otherwise the decoded
command is executed. -/
def clock (i : Input) (s : State) : Host.Outcome State Fault Refusal :=
  if i.rst then .next s.hardwareReset else exec (decode i.cmd) s

/-- The output ports while `i` is presented, before the clock edge (R50, R55): they carry the result of the step that the edge
completes. While a reserved command is presented they carry a free value (U10; assumption 7). -/
def outputs (i : Input) (s : State) : Ports :=
  match clock i s with
  | .next t => t.result.ports
  | .fault _ => Config.reservedPorts s.cp s.lp0 s.lp1 i.cmd
  | .refused _ => Config.reservedPorts s.cp s.lp0 s.lp1 i.cmd

end Sys2Proof.Machine
end

