-- ==== Sys2Proof/Machine/Step.lean ====
section
/-! DEFINITION. The step of the machine: one clock edge with the inputs that the host presents next. -/

namespace Sys2Proof.Machine

/-- One step (R60), with the next inputs of the host's queue. -/
def step (s : State) : Host.Outcome State Fault Refusal :=
  clock s.nextInput s.popInput

/-- `s` with the command word `w` presented on the very next step, `rst` = 0, before whatever the host presents already. The
command word is the whole instruction, so `nbits` selects nothing (assumption 8). -/
def State.withFetchWord (s : State) (_nbits w : Nat) : State :=
  s.present ⟨false, BitVec.ofNat 11 w⟩

end Sys2Proof.Machine
end

