-- ==== Sys2Proof/Machine/Run.lean ====
section
/-! DEFINITION. A run of one instance on a list of inputs, with the sequence of its results (R131), and the run of its bytes
alone. -/

namespace Sys2Proof.Machine

/-- The inputs of the step that presents operation `i` by its canonical word (R52). -/
def commandInput (i : Instr) : Input := ⟨false, encode i⟩

/-- The inputs of a hardware reset step, the pseudo-operation CONSTRUCT (R57); `cmd` is ignored. -/
def constructInput : Input := ⟨true, 0x000#11⟩

/-- The steps that present one CONSUME per byte, in order (R58, R81). -/
def consumeInputs (bs : List Byte) : List Input := bs.map fun b => commandInput (.consume b)

/-- The steps of the inputs `is` from `s`, first to last: the last state and the results in order, "its observable outcome"
(R131); it stops at the first step that has no result. -/
def run : List Input → State → Host.Outcome (State × List Result) Fault Refusal
  | [], s => .next (s, [])
  | i :: is, s =>
    match clock i s with
    | .next t =>
      match run is t with
      | .next (u, rs) => .next (u, t.result :: rs)
      | .fault r => .fault r
      | .refused r => .refused r
    | .fault r => .fault r
    | .refused r => .refused r

/-- `k` steps with the inputs of the host's queue, stopping at the first step that has no next state. -/
def stepMany : Nat → State → Host.Outcome State Fault Refusal
  | 0, s => .next s
  | k + 1, s =>
    match step s with
    | .next t => stepMany k t
    | .fault r => .fault r
    | .refused r => .refused r

/-- The results of a run that completed (R131). -/
def resultsOf : Host.Outcome (State × List Result) Fault Refusal → Option (List Result)
  | .next (_, rs) => some rs
  | .fault _ => none
  | .refused _ => none

/-- The registers at the end of a run that completed, "its final state is the register triple after the last step" (R131). -/
def regsOf : Host.Outcome (State × List Result) Fault Refusal → Option (Byte × Byte × Byte)
  | .next (t, _) => some t.regs
  | .fault _ => none
  | .refused _ => none

/-- The inputs begin with a hardware reset step, as every run of R131 does. -/
def beginsWithReset : List Input → Bool
  | [] => false
  | i :: _ => i.rst

/-- The registers after the bytes `bs` are accumulated in order (R11, R12). -/
def State.accumulateAll (s : State) : List Byte → State
  | [] => s
  | b :: bs => (s.accumulate b).accumulateAll bs

end Sys2Proof.Machine
end

