-- ==== Sys2Proof/Machine/Assembler.lean ====
section
/-! DEFINITION. The textual form of a program (R56 to R58): one operation per line, mnemonics in capitals, one byte operand
for CONSUME, `;` comments, and the pseudo-operations CONSTRUCT and CONSUMES. Texts are lists of characters. What R56 leaves
open of the text (blanks, letter case of hexadecimal digits, leading zeros, empty lines) is assumption 13. -/

namespace Sys2Proof.Machine

/-- Why a line is no operation: an assembly error (R56). -/
inductive AsmError where
  /-- The first word is no mnemonic. Raised by `assembleLine`; safe, no step is presented. -/
  | unknownMnemonic (word : List Char)
  /-- More or fewer operands than the operation has. Raised by `assembleLine`; safe. -/
  | operandCount (found : Nat)
  /-- The operand is no number. Raised by `parseByte`; safe. -/
  | notANumber (text : List Char)
  /-- "A value outside 0 to 255 is an assembly error, not an operation" (R56). Raised by `parseByte`; safe. -/
  | outOfRange (n : Nat)
  deriving DecidableEq, Repr

/-- A blank or a tab. -/
def isBlank (c : Char) : Bool := c == ' ' || c == '\t'

/-- "A semicolon starts a comment to end of line" (R56). -/
def stripComment (cs : List Char) : List Char := cs.takeWhile fun c => c != ';'

/-- The text without the blanks at both ends. -/
def trimBlanks (cs : List Char) : List Char :=
  (((cs.dropWhile isBlank).reverse).dropWhile isBlank).reverse

/-- The pieces of `cs` between the separators `sep`; one piece where there is none. -/
def splitAtChar (sep : Char) : List Char → List (List Char)
  | [] => [[]]
  | c :: cs =>
    if c = sep then [] :: splitAtChar sep cs
    else
      match splitAtChar sep cs with
      | [] => [[c]]
      | w :: ws => (c :: w) :: ws

/-- The value of a decimal digit. -/
def decDigit (c : Char) : Option Nat :=
  if 48 ≤ c.toNat ∧ c.toNat ≤ 57 then some (c.toNat - 48) else none

/-- The value of a hexadecimal digit, in either case. -/
def hexDigit (c : Char) : Option Nat :=
  if 65 ≤ c.toNat ∧ c.toNat ≤ 70 then some (c.toNat - 55)
  else if 97 ≤ c.toNat ∧ c.toNat ≤ 102 then some (c.toNat - 87)
  else decDigit c

/-- The number that the digits name in the base, most significant digit first, above what `acc` holds already. -/
def parseDigits (base : Nat) (digit : Char → Option Nat) : List Char → Nat → Option Nat
  | [], acc => some acc
  | c :: cs, acc =>
    match digit c with
    | none => none
    | some d => parseDigits base digit cs (base * acc + d)

/-- A number of a program text that is no byte is refused by its value (R56). -/
def byteOfNumber (n : Nat) : Except AsmError Byte :=
  if isByteNumber n then .ok (BitVec.ofNat 8 n) else .error (.outOfRange n)

/-- `<byte>`: "a number 0 to 255 written in hexadecimal with the prefix `0x` (one or two digits) or in decimal" (R56). -/
def parseByte (cs : List Char) : Except AsmError Byte :=
  match cs with
  | '0' :: 'x' :: ds =>
    if ds.length = 1 ∨ ds.length = 2 then
      match parseDigits 16 hexDigit ds 0 with
      | some n => byteOfNumber n
      | none => .error (.notANumber cs)
    else .error (.notANumber cs)
  | [] => .error (.notANumber cs)
  | _ =>
    match parseDigits 10 decDigit cs 0 with
    | some n => byteOfNumber n
    | none => .error (.notANumber cs)

/-- Each text of the list as a byte, or the first error. -/
def parseBytes : List (List Char) → Except AsmError (List Byte)
  | [] => .ok []
  | cs :: rest =>
    match parseByte cs with
    | .error e => .error e
    | .ok b =>
      match parseBytes rest with
      | .error e => .error e
      | .ok bs => .ok (b :: bs)

/-- The operand texts after a mnemonic: none, or the pieces between commas. -/
def operandTexts (cs : List Char) : List (List Char) :=
  match trimBlanks cs with
  | [] => []
  | c :: rest => (splitAtChar ',' (c :: rest)).map trimBlanks

/-- A line of an operation without operand. -/
def assembleNullary (i : Input) (ops : List (List Char)) : Except AsmError (List Input) :=
  match ops with
  | [] => .ok [i]
  | o :: os => .error (.operandCount (o :: os).length)

/-- CONSUME has exactly one operand (R56). -/
def assembleConsume (ops : List (List Char)) : Except AsmError (List Input) :=
  match ops with
  | [o] =>
    match parseByte o with
    | .ok b => .ok [commandInput (.consume b)]
    | .error e => .error e
  | [] => .error (.operandCount 0)
  | o₁ :: o₂ :: os => .error (.operandCount (o₁ :: o₂ :: os).length)

/-- CONSUMES expands to one CONSUME per operand, in the order written; with no operand to no command at all (R58). -/
def assembleConsumes (ops : List (List Char)) : Except AsmError (List Input) :=
  match parseBytes ops with
  | .ok bs => .ok (consumeInputs bs)
  | .error e => .error e

/-- The steps that one line stands for (R56 to R58). -/
def assembleLine (line : List Char) : Except AsmError (List Input) :=
  let text := trimBlanks (stripComment line)
  let word := text.takeWhile fun c => !isBlank c
  let ops := operandTexts (text.dropWhile fun c => !isBlank c)
  if word = [] then .ok []
  else if word = ['N', 'O', 'P'] then assembleNullary (commandInput .nop) ops
  else if word = ['C', 'O', 'N', 'S', 'U', 'M', 'E'] then assembleConsume ops
  else if word = ['R', 'E', 'S', 'E', 'T'] then assembleNullary (commandInput .reset) ops
  else if word = ['F', 'I', 'N', 'A', 'L', 'I', 'Z', 'E'] then assembleNullary (commandInput .finalize) ops
  else if word = ['B', 'L', 'O', 'C', 'K', 'S', 'I', 'Z', 'E'] then assembleNullary (commandInput .blockSize) ops
  else if word = ['C', 'O', 'D', 'E', 'S', 'I', 'Z', 'E'] then assembleNullary (commandInput .codeSize) ops
  else if word = ['C', 'O', 'N', 'S', 'T', 'R', 'U', 'C', 'T'] then assembleNullary constructInput ops
  else if word = ['C', 'O', 'N', 'S', 'U', 'M', 'E', 'S'] then assembleConsumes ops
  else .error (.unknownMnemonic word)

/-- The steps of the lines, in order, or the first error. -/
def assembleLines : List (List Char) → Except AsmError (List Input)
  | [] => .ok []
  | l :: ls =>
    match assembleLine l with
    | .error e => .error e
    | .ok is =>
      match assembleLines ls with
      | .error e => .error e
      | .ok js => .ok (is ++ js)

/-- The steps of a whole text, "one operation per line" (R56). -/
def assembleText (text : List Char) : Except AsmError (List Input) :=
  assembleLines (splitAtChar '\n' text)

/-- The hexadecimal digit of a number below 16, in capitals. -/
def hexChar (n : Nat) : Char := if n < 10 then Char.ofNat (48 + n) else Char.ofNat (55 + n)

/-- A byte as `0x` and two hexadecimal digits. -/
def printByte (b : Byte) : List Char := ['0', 'x', hexChar (b.toNat / 16), hexChar (b.toNat % 16)]

/-- The line of an operation; a reserved word has none. -/
def printInstr : Instr → Option (List Char)
  | .nop => some ['N', 'O', 'P']
  | .consume b => some (['C', 'O', 'N', 'S', 'U', 'M', 'E', ' '] ++ printByte b)
  | .reset => some ['R', 'E', 'S', 'E', 'T']
  | .finalize => some ['F', 'I', 'N', 'A', 'L', 'I', 'Z', 'E']
  | .blockSize => some ['B', 'L', 'O', 'C', 'K', 'S', 'I', 'Z', 'E']
  | .codeSize => some ['C', 'O', 'D', 'E', 'S', 'I', 'Z', 'E']
  | .reserved6 => none
  | .reserved7 => none

/-- The bytes with a comma and a blank between each two. -/
def printBytes : List Byte → List Char
  | [] => []
  | [b] => printByte b
  | b :: bs => printByte b ++ [',', ' '] ++ printBytes bs

/-- The line of the pseudo-operation CONSUMES (R58). -/
def printConsumes (bs : List Byte) : List Char :=
  ['C', 'O', 'N', 'S', 'U', 'M', 'E', 'S', ' '] ++ printBytes bs

end Sys2Proof.Machine
end

