-- ==== Sys2Proof/Machine/Caller.lean ====
section
/-! DEFINITION. The caller's side of the block: each call of the document's interface as the steps it is translated to and
the reply the caller forms from their results (R57, R58, R61, R81, R91, R113). The prefix buffer and the byte count are the
caller's and stand in no State. -/

namespace Sys2Proof.Machine

/-- What the caller may do to an instance (R113, first column). -/
inductive Call where
  /-- `Construct`. -/
  | construct
  /-- `reset()`. -/
  | reset
  /-- `blockSize()`. -/
  | blockSize
  /-- `codeSize()`. -/
  | codeSize
  /-- `consume(bytes)`. -/
  | consume (bytes : List Byte)
  /-- `finalize(prefixBuffer)`. -/
  | finalize (buffer : List Byte)
  /-- Idle: one NOP. -/
  | idle
  deriving DecidableEq, Repr

/-- What the caller gets (R113, last column). -/
inductive Reply where
  | nothing
  /-- The count of bytes consumed (R81). -/
  | count (n : Nat)
  /-- One of the two constants (R72, R73). -/
  | size (n : Byte)
  /-- The buffer with the code appended (R91). -/
  | buffer (bytes : List Byte)
  deriving DecidableEq, Repr

/-- The steps of a call: CONSTRUCT is one step with `rst` = 1 (R57), `consume(bytes)` is one CONSUME per byte in order and no
command for no byte (R58, R81), every other call is one command (R58). -/
def Call.inputs : Call → List Input
  | .construct => [constructInput]
  | .reset => [commandInput .reset]
  | .blockSize => [commandInput .blockSize]
  | .codeSize => [commandInput .codeSize]
  | .consume bytes => consumeInputs bytes
  | .finalize _ => [commandInput .finalize]
  | .idle => [commandInput .nop]

/-- The sum of the `accepted` bits (R58). -/
def acceptedCount (rs : List Result) : Nat := (rs.filter fun r => r.accepted).length

/-- The result bytes of the steps, in order. -/
def resultBytes (rs : List Result) : List Byte := rs.flatMap fun r => r.bytes

/-- What the caller makes of the results of a call's steps: the count of a `consume` is the sum of the `accepted` bits (R58),
`finalize` appends the result bytes to the caller's buffer (R91), the sizes are the one result byte (R72, R73). -/
def Call.reply (rs : List Result) : Call → Reply
  | .construct => .nothing
  | .reset => .nothing
  | .blockSize => .size ((resultBytes rs).getD 0 0x00#8)
  | .codeSize => .size ((resultBytes rs).getD 0 0x00#8)
  | .consume _ => .count (acceptedCount rs)
  | .finalize buffer => .buffer (buffer ++ resultBytes rs)
  | .idle => .nothing

/-- One call of the document's interface on an instance in state `s` (R61). -/
def call (c : Call) (s : State) : Host.Outcome (State × Reply) Fault Refusal :=
  match run c.inputs s with
  | .next (t, rs) => .next (t, c.reply rs)
  | .fault r => .fault r
  | .refused r => .refused r

end Sys2Proof.Machine
end

