-- ==== Sys2Proof/Machine/Platform.lean ====
section
/-! DEFINITION. Several instances (R20, R47, R109): a platform is the list of its instances' states; the ROMs, the only thing
they share, are constants. -/

namespace Sys2Proof.Machine

/-- The instances of a platform, in any number (R109, 92_eei_decisions.md D24). -/
abbrev Platform := List State

/-- Instance `k` takes one step and the others take none. Where there is no instance `k` nothing happens (assumption 11).
DESIGN CHOICE: where instance `k` presents a reserved word its refusal is that of the whole platform, so no instance has a
state after it; the spec speaks of the refused run of one instance only (assumption 20). -/
def Platform.stepAt (p : Platform) (k : Nat) : Host.Outcome Platform Fault Refusal :=
  match p[k]? with
  | none => .next p
  | some s =>
    match step s with
    | .next t => .next (p.set k t)
    | .fault r => .fault r
    | .refused r => .refused r

/-- An interleaving of steps: the instances named by `ks` step in that order. DESIGN CHOICE: it ends at the first step that is
refused, for the instances that were not refused too (assumption 20). -/
def Platform.runSchedule : List Nat → Platform → Host.Outcome Platform Fault Refusal
  | [], p => .next p
  | k :: ks, p =>
    match p.stepAt k with
    | .next q => Platform.runSchedule ks q
    | .fault r => .fault r
    | .refused r => .refused r

end Sys2Proof.Machine
end

