-- ==== Sys2Proof/Safety.lean ====
section
/-! DEFINITION. What a conforming host presents (R53, R114) and what holds of the registers in every state reachable from
reset (R18, R22), in the terms that claims use. -/

namespace Sys2Proof.Machine

/-- The host keeps its duty on this step: it takes the hardware reset, which overrides the command (R104), or presents a
command word that is not reserved (R53, R114). -/
def Input.legal (i : Input) : Bool := i.rst || (decode i.cmd).wf

/-- The step presents NOP, in any of its 256 words (R52, R70). -/
def Input.isNop (i : Input) : Bool := !i.rst && decide (decode i.cmd = .nop)

/-- The step is a (re)initialisation: the hardware reset, whatever `cmd` holds, or the command RESET (R121, R125). -/
def Input.resets (i : Input) : Bool := i.rst || decide (decode i.cmd = .reset)

/-- The step writes no register (R14): NOP, FINALIZE, BLOCKSIZE or CODESIZE without `rst`. -/
def Input.writesNoRegister (i : Input) : Bool :=
  !i.rst &&
  (decide (decode i.cmd = .nop) || decide (decode i.cmd = .finalize) ||
   decide (decode i.cmd = .blockSize) || decide (decode i.cmd = .codeSize))

/-- The exclusive-or of the bytes of a list, 0x00 of none. -/
def xorAll (bs : List Byte) : Byte := bs.foldr (fun b acc => b ^^^ acc) 0x00#8

/-- The bytes of odd parity in a list, those with `PAR[b] = 1` (R12). -/
def oddBytes (bs : List Byte) : List Byte := bs.filter parRom

/-- The oddness bit t of R22 read off `lp1`: by (d), t is `1 XOR parity(lp1)`. -/
def oddnessBit (lp1 : Byte) : Bool := !parity lp1

/-- Laws (a) to (d) of R22 of the three registers: bits 7 and 3 of `cp` are clear, `lp0` is `lp1` or its complement as the
oddness bit says, and the three pairs of bits of `cp` sum to it. Not part of the state's type (R22: "the laws are theorems
about runs, not part of the definition"). -/
def syndromeLaws (cp lp0 lp1 : Byte) : Bool :=
  !cp.getLsbD 7 && !cp.getLsbD 3 &&
  (lp0 == if oddnessBit lp1 then not8 lp1 else lp1) &&
  ((cp.getLsbD 0 ^^ cp.getLsbD 4) == oddnessBit lp1) &&
  ((cp.getLsbD 1 ^^ cp.getLsbD 5) == oddnessBit lp1) &&
  ((cp.getLsbD 2 ^^ cp.getLsbD 6) == oddnessBit lp1)

/-- R22 of a state. -/
def State.syndromeOk (s : State) : Bool := syndromeLaws s.cp s.lp0 s.lp1

/-- "Ready implies that the registers hold the sentinel" (R18). -/
def State.phaseOk (s : State) : Bool :=
  decide (s.phase = .ready → s.regs = (sentinelCp, sentinelLp0, sentinelLp1))

/-- "`bytes` is a sequence of 0 to 3 bytes" (R54), so that `rlen` says how many there are (R55). -/
def State.resultOk (s : State) : Bool := decide (s.result.bytes.length ≤ 3)

/-- What holds in every state of every run. -/
def State.invariant (s : State) : Bool := s.syndromeOk && s.phaseOk && s.resultOk

end Sys2Proof.Machine
end

