-- ==== Sys2Proof/Certificates/Slice0/Obligations.lean ====
section
/-! DEFINITION. The statements about the block, from the numbered rules of spec/. Of a command word w, `w.toNat / 256` is
`op = cmd[10:8]` and `w.toNat % 256` is `data = cmd[7:0]` (R51). No statement is about a program. -/

open Sys2Proof Sys2Proof.Machine

/-! ## Encoding -/

/-- R59: the decoder, by the value of `op` alone. -/
def Obligations.DecoderFollowsOpField : Prop :=
  ∀ w : Cmd,
    decode w =
      if w.toNat / 256 = 0 then .nop
      else if w.toNat / 256 = 1 then .consume (BitVec.ofNat 8 (w.toNat % 256))
      else if w.toNat / 256 = 2 then .reset
      else if w.toNat / 256 = 3 then .finalize
      else if w.toNat / 256 = 4 then .blockSize
      else if w.toNat / 256 = 5 then .codeSize
      else if w.toNat / 256 = 6 then .reserved6
      else .reserved7

/-- R52: the operand of CONSUME is `data` itself, every value of it legal and used as it stands; `data` is ignored by the five
operations without operand; the canonical words. -/
def Obligations.OperandIsDataAsItStands : Prop :=
  (∀ b : Byte,
    decode (BitVec.ofNat 11 (0x100 + b.toNat)) = .consume b ∧
    encode (.consume b) = BitVec.ofNat 11 (0x100 + b.toNat) ∧
    (Instr.consume b).wf = true ∧
    ∀ s : State, ∃ t, exec (.consume b) s = .next t ∧ t.cp = s.cp ^^^ colRom b ∧
      t.lp1 = (if parRom b then s.lp1 ^^^ b else s.lp1)) ∧
  (∀ w w' : Cmd, w.toNat / 256 = w'.toNat / 256 → w.toNat / 256 ≠ 1 → decode w = decode w') ∧
  encode .nop = 0x000#11 ∧ encode .reset = 0x200#11 ∧ encode .finalize = 0x300#11 ∧
  encode .blockSize = 0x400#11 ∧ encode .codeSize = 0x500#11

/-- The decoder vectors of 95_test_vectors.md section 3, and that the number 0x800 is no command word. -/
def Obligations.SpecDecoderVectors : Prop :=
  decode 0b00000000000#11 = .nop ∧ decode 0b00010100111#11 = .nop ∧
  decode 0b00100000000#11 = .consume 0x00#8 ∧ decode 0b00111111111#11 = .consume 0xFF#8 ∧
  decode 0b00100000001#11 = .consume 0x01#8 ∧
  decode 0b01000000000#11 = .reset ∧ decode 0b01011111111#11 = .reset ∧
  decode 0b01100000000#11 = .finalize ∧ decode 0b10000000000#11 = .blockSize ∧
  decode 0b10100000000#11 = .codeSize ∧ decode 0b10111111111#11 = .codeSize ∧
  decode 0b11000000000#11 = .reserved6 ∧ decode 0b11111111111#11 = .reserved7 ∧
  decodeNumber 0x800 = .error (.notElevenBits 0x800) ∧ decodeTableWord 16 0x101 = some (.consume 0x01#8)

/-- Decoding an encoded operation gives it back, for every operation and operand; encoding a decoded word gives the word back
where `data` is an operand, and the word with `data` = 0x00 where it is ignored (R51, R52, R59). -/
def Obligations.EncodeDecodeAgree : Prop :=
  (∀ i : Instr, decode (encode i) = i) ∧
  ∀ w : Cmd,
    encode (decode w) = if w.toNat / 256 = 1 then w else BitVec.ofNat 11 (w.toNat / 256 * 256)

/-- R53: the words 0x600 to 0x7FF, and no others, are reserved: they decode to no legal operation and are refused in every
state; every other word is legal and its operation has a next state. Names `reserved6` and `reserved7`, which stop on every
path. -/
def Obligations.ReservedWordsAreRefused : Prop :=
  (∀ s : State, exec .reserved6 s = .refused (.reservedCommand 6#3) ∧ exec .reserved7 s = .refused (.reservedCommand 7#3)) ∧
  (∀ (w : Cmd) (s : State), 0x600 ≤ w.toNat →
    (decode w).wf = false ∧ exec (decode w) s = .refused (.reservedCommand (BitVec.ofNat 3 (w.toNat / 256)))) ∧
  ∀ (w : Cmd) (s : State), w.toNat < 0x600 → (decode w).wf = true ∧ ∃ t, exec (decode w) s = .next t

/-! ## The two ROMs -/

/-- R31: `PAR[v]` is 1 exactly when v has an odd number of 1 bits; the spec's five entries; 128 entries are 1. -/
def Obligations.ParityRomIsXorOfBits : Prop :=
  (∀ v : Byte, parRom v = (v.getLsbD 0 ^^ v.getLsbD 1 ^^ v.getLsbD 2 ^^ v.getLsbD 3 ^^ v.getLsbD 4 ^^ v.getLsbD 5 ^^
    v.getLsbD 6 ^^ v.getLsbD 7)) ∧
  (∀ v : Byte, parRom v = true ↔ (List.range 8).countP (fun i => v.getLsbD i) % 2 = 1) ∧
  parRom 0x00#8 = false ∧ parRom 0x01#8 = true ∧ parRom 0x03#8 = false ∧ parRom 0x80#8 = true ∧ parRom 0xFF#8 = false ∧
  ((List.range 256).countP fun n => parRom (BitVec.ofNat 8 n)) = 128

/-- R32: the shift-and-XOR reduction leaves in bit 0 the exclusive-or of bits 0 and 1 after the first step, of bits 0 to 3 after
the second and of all 8 bits, `PAR[v]`, after the third. -/
def Obligations.ShiftAndXorReductionIsParity : Prop :=
  ∀ v v₁ v₂ v₃ : Byte, v₁ = v ^^^ (v >>> 1) → v₂ = v₁ ^^^ (v₁ >>> 2) → v₃ = v₂ ^^^ (v₂ >>> 4) →
    v₁.getLsbD 0 = (v.getLsbD 0 ^^ v.getLsbD 1) ∧
    v₂.getLsbD 0 = (v.getLsbD 0 ^^ v.getLsbD 1 ^^ v.getLsbD 2 ^^ v.getLsbD 3) ∧
    v₃.getLsbD 0 = (v.getLsbD 0 ^^ v.getLsbD 1 ^^ v.getLsbD 2 ^^ v.getLsbD 3 ^^ v.getLsbD 4 ^^ v.getLsbD 5 ^^
      v.getLsbD 6 ^^ v.getLsbD 7) ∧
    v₃ &&& 1#8 = if parRom v then 1#8 else 0#8

/-- R34, with the selectors of R33 written out: each bit of `COL[v]`, and its value as a number. -/
def Obligations.ColumnRomPacksSelectorParities : Prop :=
  ∀ v : Byte,
    (colRom v).getLsbD 0 = parity (v &&& 0x55#8) ∧ (colRom v).getLsbD 1 = parity (v &&& 0x33#8) ∧
    (colRom v).getLsbD 2 = parity (v &&& 0x0F#8) ∧ (colRom v).getLsbD 3 = parity (v &&& 0x00#8) ∧
    (colRom v).getLsbD 4 = parity (v &&& 0xAA#8) ∧ (colRom v).getLsbD 5 = parity (v &&& 0xCC#8) ∧
    (colRom v).getLsbD 6 = parity (v &&& 0xF0#8) ∧ (colRom v).getLsbD 7 = false ∧
    (colRom v).toNat =
      (parity (v &&& 0x55#8)).toNat + (parity (v &&& 0x33#8)).toNat * 2 + (parity (v &&& 0x0F#8)).toNat * 4 +
      (parity (v &&& 0x00#8)).toNat * 8 + (parity (v &&& 0xAA#8)).toNat * 16 + (parity (v &&& 0xCC#8)).toNat * 32 +
      (parity (v &&& 0xF0#8)).toNat * 64 ∧
    (colRom v).getLsbD 0 = (v.getLsbD 0 ^^ v.getLsbD 2 ^^ v.getLsbD 4 ^^ v.getLsbD 6) ∧
    (colRom v).getLsbD 1 = (v.getLsbD 0 ^^ v.getLsbD 1 ^^ v.getLsbD 4 ^^ v.getLsbD 5) ∧
    (colRom v).getLsbD 2 = (v.getLsbD 0 ^^ v.getLsbD 1 ^^ v.getLsbD 2 ^^ v.getLsbD 3) ∧
    (colRom v).getLsbD 3 = false ∧
    (colRom v).getLsbD 4 = (v.getLsbD 1 ^^ v.getLsbD 3 ^^ v.getLsbD 5 ^^ v.getLsbD 7) ∧
    (colRom v).getLsbD 5 = (v.getLsbD 2 ^^ v.getLsbD 3 ^^ v.getLsbD 6 ^^ v.getLsbD 7) ∧
    (colRom v).getLsbD 6 = (v.getLsbD 4 ^^ v.getLsbD 5 ^^ v.getLsbD 6 ^^ v.getLsbD 7)

/-- Both ROMs are linear over exclusive-or, a byte and its complement have the same entries, and the one-hot entry of `COL` at
2^i has i in bits 6 to 4 and 7 - i in bits 2 to 0 (the derived law of 20_memory.md section 6). -/
def Obligations.RomsAreLinear : Prop :=
  (∀ a b : Byte, parRom (a ^^^ b) = (parRom a ^^ parRom b) ∧ colRom (a ^^^ b) = colRom a ^^^ colRom b) ∧
  (∀ v : Byte, colRom (not8 v) = colRom v ∧ parRom (not8 v) = parRom v) ∧
  ∀ i : Nat, i < 8 → colRom (1#8 <<< i) = BitVec.ofNat 8 (16 * i + (7 - i))

/-! ## The operations, each with its next state -/

/-- R70. The next state says what NOP leaves as it was: everything but the result. -/
def Obligations.NopHoldsTheState : Prop :=
  (∀ s : State, exec .nop s = .next { s with result := ⟨false, []⟩ }) ∧
  (∀ w : Cmd, w.toNat / 256 = 0 → decode w = .nop) ∧ encode .nop = 0x000#11 ∧
  (∀ (s : State) (w : Cmd) (is : List Input), w.toNat / 256 = 0 →
    resultsOf (run (⟨false, w⟩ :: is) s) = (resultsOf (run is s)).map (fun rs => ⟨false, []⟩ :: rs) ∧
    regsOf (run (⟨false, w⟩ :: is) s) = regsOf (run is s)) ∧
  ∀ s : State, s.regs = (0x70#8, 0x81#8, 0x7E#8) → ∃ t, exec .nop s = .next t ∧ t.regs = (0x70#8, 0x81#8, 0x7E#8)

/-- R71. -/
def Obligations.ResetWritesTheSentinel : Prop :=
  (∀ s : State, exec .reset s =
    .next { s with cp := 0x77#8, lp0 := 0x7F#8, lp1 := 0x7F#8, phase := .ready, result := ⟨false, []⟩ }) ∧
  (∀ w : Cmd, w.toNat / 256 = 2 → decode w = .reset) ∧ encode .reset = 0x200#11 ∧
  (∀ s t : State, exec .reset s = .next t → exec .reset t = .next t) ∧
  exec .reset State.reset = .next State.reset ∧
  (∀ (w : Cmd) (s : State), clock ⟨true, w⟩ s = exec .reset s) ∧
  ∀ (s s' : State) (is : List Input),
    resultsOf (run (commandInput .reset :: is) s) = resultsOf (run (commandInput .reset :: is) s')

/-- R72: the constant 1, whatever the state; no granularity is enforced, a stream of any length is accepted. -/
def Obligations.BlockSizeAnswersOne : Prop :=
  (∀ s : State, exec .blockSize s = .next { s with result := ⟨false, [0x01#8]⟩ }) ∧
  (∀ w : Cmd, w.toNat / 256 = 4 → decode w = .blockSize) ∧ encode .blockSize = 0x400#11 ∧
  ∀ (bs : List Byte) (s : State), ∃ t rs, run (consumeInputs bs) s = .next (t, rs)

/-- R73: the constant 3, whatever the state, and it is the number of bytes that FINALIZE answers in every state. -/
def Obligations.CodeSizeAnswersThree : Prop :=
  (∀ s : State, exec .codeSize s = .next { s with result := ⟨false, [0x03#8]⟩ }) ∧
  (∀ w : Cmd, w.toNat / 256 = 5 → decode w = .codeSize) ∧ encode .codeSize = 0x500#11 ∧
  ∀ s : State, ∃ t u, exec .codeSize s = .next t ∧ exec .finalize s = .next u ∧
    t.result.bytes = [BitVec.ofNat 8 u.result.bytes.length]

/-- R80: `cp` takes `COL[b]`; where `PAR[b]` = 1, `lp0` takes `NOT8(b)` and `lp1` takes b; nothing else of the state changes
but the phase and the result. Where `COL[b]` = 0x00 no register changes. -/
def Obligations.ConsumeAccumulatesTheByte : Prop :=
  (∀ (s : State) (b : Byte), exec (.consume b) s =
    .next { s with
      cp := s.cp ^^^ colRom b
      lp0 := if parRom b then s.lp0 ^^^ (b ^^^ 0xFF#8) else s.lp0
      lp1 := if parRom b then s.lp1 ^^^ b else s.lp1
      phase := .accumulating
      result := ⟨true, []⟩ }) ∧
  (∀ w : Cmd, w.toNat / 256 = 1 → decode w = .consume (BitVec.ofNat 8 (w.toNat % 256))) ∧
  (∀ b : Byte, encode (.consume b) = BitVec.ofNat 11 (0x100 + b.toNat)) ∧
  (∀ (s : State) (b : Byte), colRom b = 0x00#8 → ∃ t, exec (.consume b) s = .next t ∧ t.regs = s.regs) ∧
  (∃ t, exec (.consume 0x01#8) State.reset = .next t ∧ t.regs = (0x70#8, 0x81#8, 0x7E#8)) ∧
  ∃ t, exec (.consume 0x80#8) State.reset = .next t ∧ t.lp1 = 0xFF#8

/-- R90: the code, with only `lp0` masked; no register, and nothing but the result, changes; the code on the ports. -/
def Obligations.FinalizeEmitsTheCode : Prop :=
  (∀ s : State, exec .finalize s = .next { s with result := ⟨false, [s.cp, s.lp0 &&& 0x7F#8, s.lp1]⟩ }) ∧
  (∀ w : Cmd, w.toNat / 256 = 3 → decode w = .finalize) ∧ encode .finalize = 0x300#11 ∧
  (∀ (s : State) (w : Cmd), w.toNat / 256 = 3 → outputs ⟨false, w⟩ s = ⟨false, 3#2, s.cp, s.lp0 &&& 0x7F#8, s.lp1⟩) ∧
  ∀ s : State, s.regs = (0x70#8, 0x81#8, 0x7E#8) →
    ∃ t, exec .finalize s = .next t ∧ t.result.bytes = [0x70#8, 0x01#8, 0x7E#8] ∧ t.regs = (0x70#8, 0x81#8, 0x7E#8)

/-- R14: which operation writes which register, and which reads it. A register after an operation depends on that register
alone; no result but FINALIZE's depends on a register. -/
def Obligations.RegisterWritersAndReaders : Prop :=
  (∀ (w : Cmd) (s : State), ∃ t, clock ⟨true, w⟩ s = .next t ∧ t.regs = (0x77#8, 0x7F#8, 0x7F#8)) ∧
  (∀ s : State, ∃ t, exec .reset s = .next t ∧ t.regs = (0x77#8, 0x7F#8, 0x7F#8)) ∧
  (∀ (i : Instr) (s t : State), exec i s = .next t → i ≠ .reset → (∀ b, i ≠ .consume b) → t.regs = s.regs) ∧
  (∀ (b : Byte) (s t : State), parRom b = false → exec (.consume b) s = .next t → t.lp0 = s.lp0 ∧ t.lp1 = s.lp1) ∧
  (∀ (i : Instr) (s s' t t' : State), exec i s = .next t → exec i s' = .next t' →
    (s.cp = s'.cp → t.cp = t'.cp) ∧ (s.lp0 = s'.lp0 → t.lp0 = t'.lp0) ∧ (s.lp1 = s'.lp1 → t.lp1 = t'.lp1) ∧
    (i ≠ .finalize → t.result = t'.result))

/-- R54: the result of every operation and of a hardware reset step; the `accepted` bits of a stream's CONSUME commands add up
to its length; a result has at most three bytes. -/
def Obligations.ResultOfEachOperation : Prop :=
  (∀ s : State, ∃ t, exec .nop s = .next t ∧ t.result = ⟨false, []⟩) ∧
  (∀ s : State, ∃ t, exec .reset s = .next t ∧ t.result = ⟨false, []⟩) ∧
  (∀ (b : Byte) (s : State), ∃ t, exec (.consume b) s = .next t ∧ t.result = ⟨true, []⟩) ∧
  (∀ s : State, ∃ t, exec .finalize s = .next t ∧ t.result = ⟨false, [s.cp, s.lp0 &&& 0x7F#8, s.lp1]⟩) ∧
  (∀ s : State, ∃ t, exec .blockSize s = .next t ∧ t.result = ⟨false, [0x01#8]⟩) ∧
  (∀ s : State, ∃ t, exec .codeSize s = .next t ∧ t.result = ⟨false, [0x03#8]⟩) ∧
  (∀ (w : Cmd) (s : State), ∃ t, clock ⟨true, w⟩ s = .next t ∧ t.result = ⟨false, []⟩) ∧
  (∀ (bs : List Byte) (s : State), ∃ t rs, run (consumeInputs bs) s = .next (t, rs) ∧ acceptedCount rs = bs.length) ∧
  ∀ (i : Input) (s t : State), clock i s = .next t → t.result.bytes.length ≤ 3

/-- R55: the output ports, in the same step as the command; of a reserved command nothing is said. -/
def Obligations.PortsCarryTheResult : Prop :=
  (∀ (a : Bool) (x y z : Byte),
    (Result.mk a []).ports = ⟨a, 0#2, 0x00#8, 0x00#8, 0x00#8⟩ ∧ (Result.mk a [x]).ports = ⟨a, 1#2, x, 0x00#8, 0x00#8⟩ ∧
    (Result.mk a [x, y]).ports = ⟨a, 2#2, x, y, 0x00#8⟩ ∧ (Result.mk a [x, y, z]).ports = ⟨a, 3#2, x, y, z⟩) ∧
  (∀ (i : Input) (s t : State), clock i s = .next t → outputs i s = t.result.ports) ∧
  (∀ (s : State) (w : Cmd), w.toNat < 0x600 →
    outputs ⟨false, w⟩ s =
      if w.toNat / 256 = 3 then ⟨false, 3#2, s.cp, s.lp0 &&& 0x7F#8, s.lp1⟩
      else if w.toNat / 256 = 4 then ⟨false, 1#2, 0x01#8, 0x00#8, 0x00#8⟩
      else if w.toNat / 256 = 5 then ⟨false, 1#2, 0x03#8, 0x00#8, 0x00#8⟩
      else if w.toNat / 256 = 1 then ⟨true, 0#2, 0x00#8, 0x00#8, 0x00#8⟩
      else ⟨false, 0#2, 0x00#8, 0x00#8, 0x00#8⟩) ∧
  ∀ (s : State) (w : Cmd), outputs ⟨true, w⟩ s = ⟨false, 0#2, 0x00#8, 0x00#8, 0x00#8⟩

/-- The outputs are a function of the registers before the clock edge, of `rst` and of `cmd` (30_encoding.md section 1), for
reserved commands too, whatever value the ports have then; and while `rst` is 1 of nothing at all. -/
def Obligations.OutputsAreCombinational : Prop :=
  (∀ (i : Input) (s s' : State), s.regs = s'.regs → outputs i s = outputs i s') ∧
  ∀ (w w' : Cmd) (s s' : State), outputs ⟨true, w⟩ s = outputs ⟨true, w'⟩ s'

/-- R18: the ghost phase. Its transitions; that no result and no register depends on it; that in every run Ready implies the
sentinel, and not the other way round (CONSUME 0x00); that a `consume` of no byte leaves it. -/
def Obligations.PhaseIsAGhost : Prop :=
  (∀ (i : Instr) (s t : State), exec i s = .next t →
    (i = .reset → t.phase = .ready) ∧ (∀ b, i = .consume b → t.phase = .accumulating) ∧
    (i ≠ .reset → (∀ b, i ≠ .consume b) → t.phase = s.phase)) ∧
  (∀ (w : Cmd) (s t : State), clock ⟨true, w⟩ s = .next t → t.phase = .ready) ∧
  (∀ (is : List Input) (s : State) (p : Phase),
    resultsOf (run is { s with phase := p }) = resultsOf (run is s) ∧
    regsOf (run is { s with phase := p }) = regsOf (run is s)) ∧
  (∀ (is : List Input) (s t : State) (rs : List Result), beginsWithReset is = true → run is s = .next (t, rs) →
    t.phase = .ready → t.regs = (0x77#8, 0x7F#8, 0x7F#8)) ∧
  (∃ t, exec (.consume 0x00#8) State.reset = .next t ∧ t.regs = (0x77#8, 0x7F#8, 0x7F#8) ∧ t.phase = .accumulating) ∧
  ∀ s : State, ∃ t n, call (.consume []) s = .next (t, n) ∧ t.phase = s.phase

/-- R21: all 8 bits of `lp0` take part in every update, bit 7 is cleared only in the emitted byte; `cp` and `lp1` are emitted
unmasked. -/
def Obligations.MaskOnlyAtOutput : Prop :=
  (∀ (s : State) (b : Byte), ∃ t, exec (.consume b) s = .next t ∧
    ∀ k, k < 8 → t.lp0.getLsbD k = (if parRom b then s.lp0.getLsbD k ^^ !b.getLsbD k else s.lp0.getLsbD k)) ∧
  (∀ s : State, ∃ t byte1, exec .finalize s = .next t ∧ t.result.bytes = [s.cp, byte1, s.lp1] ∧ t.lp0 = s.lp0 ∧
    byte1.getLsbD 7 = false ∧ ∀ k, k < 7 → byte1.getLsbD k = s.lp0.getLsbD k) ∧
  ∃ t u, exec (.consume 0x01#8) State.reset = .next t ∧ t.lp0 = 0x81#8 ∧ exec .finalize t = .next u ∧
    u.result.bytes = [0x70#8, 0x01#8, 0x7E#8] ∧ u.lp0 = 0x81#8

/-! ## Reset and the step -/

/-- R13: the state after reset, after Construct and after every RESET holds the sentinel. -/
def Obligations.ResetStateIsTheSentinel : Prop :=
  State.reset.regs = (0x77#8, 0x7F#8, 0x7F#8) ∧
  (∀ (w : Cmd) (s : State), ∃ t, clock ⟨true, w⟩ s = .next t ∧ t.regs = (0x77#8, 0x7F#8, 0x7F#8)) ∧
  ∀ s : State, ∃ t, exec .reset s = .next t ∧ t.regs = (0x77#8, 0x7F#8, 0x7F#8)

/-- R120: a step with `rst` = 1, whatever `cmd` holds; one such step suffices and any number of them has the same effect. -/
def Obligations.HardwareResetFromAnyState : Prop :=
  (∀ (w : Cmd) (s : State), clock ⟨true, w⟩ s = .next { State.reset with inputs := s.inputs }) ∧
  (∀ w : Cmd, clock ⟨true, w⟩ State.reset = .next State.reset) ∧
  ∀ (is : List Input) (s : State), is ≠ [] → (∀ i ∈ is, i.rst = true) →
    run is s = .next ({ s with cp := 0x77#8, lp0 := 0x7F#8, lp1 := 0x7F#8, phase := .ready, result := ⟨false, []⟩ },
      is.map fun _ => ⟨false, []⟩)

/-- R60: one step with inputs `rst` and `cmd`. -/
def Obligations.ClockEdgeTakesResetOrCommand : Prop :=
  ∀ (s : State) (w : Cmd),
    clock ⟨true, w⟩ s = .next { s with cp := 0x77#8, lp0 := 0x7F#8, lp1 := 0x7F#8, phase := .ready, result := ⟨false, []⟩ } ∧
    ((decode w).wf = true → clock ⟨false, w⟩ s = exec (decode w) s) ∧
    ((decode w).wf = false → ∃ op, clock ⟨false, w⟩ s = .refused (.reservedCommand op))

/-- A step runs the decoded instruction: the step takes its inputs from the head of the host's queue, which it removes
(30_encoding.md section 5; the queue is assumption 1), and is otherwise the instruction, or the hardware reset. -/
def Obligations.StepRunsThePresentedCommand : Prop :=
  ∀ (s : State) (w : Cmd) (rest : List Input),
    (s.inputs = ⟨true, w⟩ :: rest →
      step s = .next ⟨0x77#8, 0x7F#8, 0x7F#8, .ready, rest, ⟨false, []⟩⟩) ∧
    (s.inputs = ⟨false, w⟩ :: rest →
      ((decode w).wf = true → step s = exec (decode w) { s with inputs := rest }) ∧
      ((decode w).wf = false → ∃ op, step s = .refused (.reservedCommand op)))

/-- Where the host's queue is empty the step is an idle one: NOP. The model's choice (assumption 2), after "the host idles by
presenting NOP" of 30_encoding.md section 1. -/
def Obligations.EmptyQueueIdles : Prop :=
  ∀ s : State, s.inputs = [] → step s = exec .nop s ∧ step s = .next { s with result := ⟨false, []⟩ }

/-- R102: the only outcome of a step that is not a next state is the refusal of a reserved command word presented without
`rst`; the six operations are total. -/
def Obligations.OnlyReservedCommandsStop : Prop :=
  (∀ (i : Input) (s : State), (∃ r, clock i s = .refused r) ↔ i.rst = false ∧ 0x600 ≤ i.cmd.toNat) ∧
  (∀ (i : Input) (s : State), (∃ t, clock i s = .next t) ↔ i.rst = true ∨ i.cmd.toNat < 0x600) ∧
  ∀ (i : Instr) (s : State), i.wf = true → ∃ t, exec i s = .next t

/-! ## Invariants -/

/-- Laws (a) to (d) of the registers, that Ready implies the sentinel, and that a result has at most three bytes: every step
keeps them, from every state that has them (10_state.md sections 2 and 4). -/
def Obligations.StepKeepsTheInvariant : Prop :=
  ∀ s t : State, s.invariant = true → step s = .next t → t.invariant = true

/-- The state after reset has the invariant of `StepKeepsTheInvariant`. -/
def Obligations.ResetMeetsTheInvariant : Prop :=
  State.reset.invariant = true

/-- The triples reachable by a run that begins with a hardware reset are exactly those that satisfy laws (a) to (d), and there
are 8 times 256 of them: one for each value of `cp[2:0]` and of `lp1` (10_state.md section 4). -/
def Obligations.ReachableTriplesAreTheLawful : Prop :=
  (∀ cp lp0 lp1 : Byte, syndromeLaws cp lp0 lp1 = true ↔
    ∃ (is : List Input) (s t : State) (rs : List Result),
      beginsWithReset is = true ∧ run is s = .next (t, rs) ∧ t.regs = (cp, lp0, lp1)) ∧
  ∀ (c : BitVec 3) (lp1 : Byte), ∃! p : Byte × Byte, syndromeLaws p.1 p.2 lp1 = true ∧ p.1.extractLsb' 0 3 = c

/-! ## Streams of bytes -/

/-- R11 and R12: after the bytes bs since a hardware reset, `cp` is 0x77 XOR the `COL` entries of all of them, `lp0` and `lp1`
are 0x7F XOR the complements and the values of those of odd parity. -/
def Obligations.RegistersAreRunningXors : Prop :=
  ∀ (bs : List Byte) (s : State), ∃ t rs,
    run (constructInput :: consumeInputs bs) s = .next (t, rs) ∧
    t.cp = 0x77#8 ^^^ xorAll (bs.map colRom) ∧
    t.lp0 = 0x7F#8 ^^^ xorAll ((oddBytes bs).map fun b => b ^^^ 0xFF#8) ∧
    t.lp1 = 0x7F#8 ^^^ xorAll (oddBytes bs)

/-- The closed form of the registers and of the emitted code (41_consume.md section 2, 42_finalize.md): x the exclusive-or of
all bytes, y of those of odd parity, their number odd or even. The code's third byte tells which, so the second carries
nothing more. -/
def Obligations.CodeInClosedForm : Prop :=
  ∀ (bs : List Byte) (s : State) (x y : Byte) (odd : Bool),
    x = xorAll bs → y = xorAll (oddBytes bs) → odd = decide ((oddBytes bs).length % 2 = 1) →
    ∃ t rs byte0 byte1 byte2,
      run (constructInput :: (consumeInputs bs ++ [commandInput .finalize])) s = .next (t, rs) ∧
      t.regs = (0x77#8 ^^^ colRom x, 0x7F#8 ^^^ y ^^^ (if odd then 0xFF#8 else 0x00#8), 0x7F#8 ^^^ y) ∧
      rs.getLast? = some ⟨false, [byte0, byte1, byte2]⟩ ∧
      byte0 = 0x77#8 ^^^ colRom x ∧ byte0 &&& 0x88#8 = 0x00#8 ∧
      byte1 = (if odd then y &&& 0x7F#8 else 0x7F#8 ^^^ (y &&& 0x7F#8)) ∧
      byte2 = 0x7F#8 ^^^ y ∧
      odd = !parity byte2 ∧ byte1 = (if odd then not8 byte2 else byte2) &&& 0x7F#8

/-- Order does not matter (41_consume.md section 2, 90_conflicts.md C1): a permuted stream gives the same run. -/
def Obligations.ByteOrderDoesNotMatter : Prop :=
  ∀ (bs bs' : List Byte) (s : State), bs.Perm bs' → run (consumeInputs bs) s = run (consumeInputs bs') s

/-- Splitting does not matter (41_consume.md section 2): any steps that write no register may stand between two parts of a
stream. -/
def Obligations.SplittingDoesNotMatter : Prop :=
  ∀ (xs ys : List Byte) (mid : List Input) (s : State), (∀ i ∈ mid, i.writesNoRegister = true) →
    ∃ regs, regsOf (run (consumeInputs (xs ++ ys)) s) = some regs ∧
      regsOf (run (consumeInputs xs ++ mid ++ consumeInputs ys) s) = some regs

/-- A byte consumed twice cancels, so the registers depend only on which byte values occur an odd number of times
(41_consume.md section 2, 10_state.md section 4). -/
def Obligations.OnlyOddOccurrencesCount : Prop :=
  (∀ (s : State) (b : Byte), ∃ t u, exec (.consume b) s = .next t ∧ exec (.consume b) t = .next u ∧ u.regs = s.regs) ∧
  ∀ (bs bs' : List Byte) (s : State), (∀ b : Byte, bs.count b % 2 = bs'.count b % 2) →
    regsOf (run (consumeInputs bs) s) = regsOf (run (consumeInputs bs') s)

/-- Which bytes leave every state's registers unchanged: exactly the 16 the spec lists; of the other bytes those of even parity
change `cp` only and those of odd parity change all three (41_consume.md section 2). -/
def Obligations.IdentityBytesAreTheSixteen : Prop :=
  ∀ (b : Byte) (s : State), ∃ t, exec (.consume b) s = .next t ∧
    (t.regs = s.regs ↔ b ∈ [0x00#8, 0x0F#8, 0x33#8, 0x3C#8, 0x55#8, 0x5A#8, 0x66#8, 0x69#8,
      0x96#8, 0x99#8, 0xA5#8, 0xAA#8, 0xC3#8, 0xCC#8, 0xF0#8, 0xFF#8]) ∧
    (t.regs ≠ s.regs → t.cp ≠ s.cp) ∧
    (parRom b = false → t.lp0 = s.lp0 ∧ t.lp1 = s.lp1) ∧
    (parRom b = true → t.cp ≠ s.cp ∧ t.lp0 ≠ s.lp0 ∧ t.lp1 ≠ s.lp1)

/-- Two streams that differ in bit i of one byte: their `cp` differ by `COL[2^i]`, i in bits 6 to 4 and 7 - i in bits 2 to 0,
and exactly one of the two bytes enters `lp0` and `lp1` (41_consume.md section 2). -/
def Obligations.FlippedBitShowsInCp : Prop :=
  ∀ (xs ys : List Byte) (b : Byte) (i : Nat) (s : State), i < 8 →
    ∃ t t' rs rs',
      run (consumeInputs (xs ++ b :: ys)) s = .next (t, rs) ∧
      run (consumeInputs (xs ++ (b ^^^ (1#8 <<< i)) :: ys)) s = .next (t', rs') ∧
      t.cp ^^^ t'.cp = BitVec.ofNat 8 (16 * i + (7 - i)) ∧
      parRom (b ^^^ (1#8 <<< i)) = !parRom b

/-! ## Whole runs -/

/-- R92: FINALIZE writes no register, so the run goes on as if it had not happened; twice with no CONSUME and no reset between
gives identical bytes. -/
def Obligations.FinalizeDisturbsNothing : Prop :=
  (∀ (is : List Input) (s : State),
    resultsOf (run (commandInput .finalize :: is) s) =
      (resultsOf (run is s)).map (fun rs => ⟨false, [s.cp, s.lp0 &&& 0x7F#8, s.lp1]⟩ :: rs) ∧
    regsOf (run (commandInput .finalize :: is) s) = regsOf (run is s)) ∧
  (∀ (mid : List Input) (s : State), (∀ i ∈ mid, i.writesNoRegister = true) →
    ∃ t rs, run (commandInput .finalize :: (mid ++ [commandInput .finalize])) s = .next (t, rs) ∧
      rs.head? = some ⟨false, [s.cp, s.lp0 &&& 0x7F#8, s.lp1]⟩ ∧ rs.getLast? = rs.head? ∧ t.regs = s.regs) ∧
  ∀ (bs : List Byte) (s : State), ∃ t u rs rs',
    run (consumeInputs bs) s = .next (t, rs) ∧ run (consumeInputs bs ++ [commandInput .finalize]) s = .next (u, rs') ∧
    rs'.getLast? = some ⟨false, [t.cp, t.lp0 &&& 0x7F#8, t.lp1]⟩

/-- R94: FINALIZE before any CONSUME, after Construct, after RESET and from the state after reset. -/
def Obligations.FinalizeBeforeAnyConsume : Prop :=
  (∃ t, exec .finalize State.reset = .next t ∧ t.result = ⟨false, [0x77#8, 0x7F#8, 0x7F#8]⟩) ∧
  (∀ s : State, resultsOf (run [constructInput, commandInput .finalize] s) =
    some [⟨false, []⟩, ⟨false, [0x77#8, 0x7F#8, 0x7F#8]⟩]) ∧
  ∀ s : State, resultsOf (run [commandInput .reset, commandInput .finalize] s) =
    some [⟨false, []⟩, ⟨false, [0x77#8, 0x7F#8, 0x7F#8]⟩]

/-- R125: reset is total and idempotent and forgets everything before it: what follows it, results and registers, is the same
from any two states. -/
def Obligations.ResetForgetsTheHistory : Prop :=
  (∀ (r : Input) (s : State), r.resets = true →
    ∃ t, clock r s = .next t ∧ t.regs = (0x77#8, 0x7F#8, 0x7F#8) ∧ t.phase = .ready ∧ clock r t = .next t) ∧
  ∀ (r : Input) (is : List Input) (s s' : State), r.resets = true →
    resultsOf (run (r :: is) s) = resultsOf (run (r :: is) s') ∧ regsOf (run (r :: is) s) = regsOf (run (r :: is) s')

/-- A run has a last state and one result per step exactly when every step presented is legal: the block never waits, drops or
defers a command (70_reset_and_hazards.md section 3, 60_exceptions.md section 1). -/
def Obligations.LegalRunsNeverStop : Prop :=
  ∀ (is : List Input) (s : State),
    (∀ i ∈ is, i.legal = true) ↔ ∃ t rs, run is s = .next (t, rs) ∧ rs.length = is.length

/-- Stepping the machine once for each input in its queue is the run of those inputs (70_reset_and_hazards.md section 4; the
queue is assumption 1). -/
def Obligations.QueueRunIsRunOfInputs : Prop :=
  ∀ (is rest : List Input) (s : State), s.inputs = is ++ rest →
    stepMany is.length s =
      match run is { s with inputs := rest } with
      | .next (t, _) => .next t
      | .fault f => .fault f
      | .refused r => .refused r

/-- Steps with NOP, in any number and at any place, can be taken out: the registers, the phase and the results of the other
steps are the same (30_encoding.md section 5, "Any number of NOP steps may stand between any two commands"). -/
def Obligations.NopStepsAreInvisible : Prop :=
  ∀ (is : List Input) (s t : State) (rs : List Result), run is s = .next (t, rs) →
    ∃ t' rs', run (is.filter fun i => !i.isNop) s = .next (t', rs') ∧ t'.regs = t.regs ∧ t'.phase = t.phase ∧
      rs' = ((is.zip rs).filter fun p => !p.1.isNop).map fun p => p.2

/-- The host cannot observe bit 7 of `lp0` nor the phase (60_exceptions.md section 6, 42_finalize.md): two states that differ
in nothing else of the registers give the same results on any inputs, and a run of one has results when the other's has. Of
the ports during a reserved command, a free value that may depend on all of `lp0`, nothing is said (assumption 7). -/
def Obligations.HiddenBitsAreUnobservable : Prop :=
  ∀ (is : List Input) (s s' : State), s.cp = s'.cp → s.lp0 &&& 0x7F#8 = s'.lp0 &&& 0x7F#8 → s.lp1 = s'.lp1 →
    resultsOf (run is s) = resultsOf (run is s')

/-! ## The caller, the assembler, several instances -/

/-- R81: `consume(bytes)` is one CONSUME per byte in order, never fails, reports its whole input as consumed, and with no byte
performs no operation. -/
def Obligations.ConsumeCallReportsItsLength : Prop :=
  (∀ bs : List Byte, (Call.consume bs).inputs = bs.map fun b => ⟨false, encode (.consume b)⟩) ∧
  (∀ (bs : List Byte) (s : State), ∃ t, call (.consume bs) s = .next (t, .count bs.length)) ∧
  (∀ s : State, call (.consume []) s = .next (s, .count 0)) ∧
  ∀ (b : Byte) (bs : List Byte) (s : State), ∃ t u, exec (.consume b) s = .next t ∧
    call (.consume bs) t = .next (u, .count bs.length) ∧ call (.consume (b :: bs)) s = .next (u, .count (bs.length + 1))

/-- R91: `finalize(prefix)` replies the prefix with the code appended, whatever the prefix, and the prefix never enters the
block. -/
def Obligations.FinalizeCallAppendsTheCode : Prop :=
  ∀ (buffer : List Byte) (s : State),
    call (.finalize buffer) s =
      .next ({ s with result := ⟨false, [s.cp, s.lp0 &&& 0x7F#8, s.lp1]⟩ }, .buffer (buffer ++ [s.cp, s.lp0 &&& 0x7F#8, s.lp1]))

/-- The other calls of the table of 60_exceptions.md section 6: what the block does and what the caller gets. -/
def Obligations.OtherCallsOfTheInterface : Prop :=
  ∀ s : State,
    call .construct s = .next ({ State.reset with inputs := s.inputs }, .nothing) ∧
    call .reset s = .next ({ State.reset with inputs := s.inputs }, .nothing) ∧
    call .blockSize s = .next ({ s with result := ⟨false, [0x01#8]⟩ }, .size 0x01#8) ∧
    call .codeSize s = .next ({ s with result := ⟨false, [0x03#8]⟩ }, .size 0x03#8) ∧
    call .idle s = .next ({ s with result := ⟨false, []⟩ }, .nothing)

/-- The printed line of every legal operation assembles to its canonical word, a reserved word has no line, CONSTRUCT is the
`rst` step, and CONSUME with a decimal operand, any digits, assembles to its word where the number is 0 to 255 and is an assembly
error where it is not (30_encoding.md section 4; the form of the line, with one blank and leading zeros allowed, is
assumption 13). -/
def Obligations.AssemblerInvertsPrinter : Prop :=
  (∀ i : Instr, i.wf = true → ∃ line, printInstr i = some line ∧ assembleLine line = .ok [⟨false, encode i⟩]) ∧
  (∀ i : Instr, i.wf = false → printInstr i = none) ∧
  (∃ i, assembleLine ['C', 'O', 'N', 'S', 'T', 'R', 'U', 'C', 'T'] = .ok [i] ∧ i.rst = true) ∧
  (∀ n : Nat, 255 < n → byteOfNumber n = .error (.outOfRange n)) ∧
  ∀ (ds : List (Fin 10)) (n : Nat), ds ≠ [] → n = ds.foldl (fun acc d => 10 * acc + d.val) 0 →
    assembleLine (['C', 'O', 'N', 'S', 'U', 'M', 'E', ' '] ++ ds.map fun d => Char.ofNat (48 + d.val)) =
      if n ≤ 255 then .ok [⟨false, encode (.consume (BitVec.ofNat 8 n))⟩] else .error (.outOfRange n)

/-- CONSUMES with any number of operands expands to that many CONSUME commands in the order written (30_encoding.md section
4). -/
def Obligations.ConsumesExpandsInOrder : Prop :=
  ∀ bs : List Byte, assembleLine (printConsumes bs) = .ok (bs.map fun b => ⟨false, encode (.consume b)⟩)

/-- R20 of the steps: no operation on one instance reads or writes the registers of another, or anything else of its state. The
platform's form is assumption 11; of a refused step nothing is said (assumption 20). -/
def Obligations.InstancesDoNotInteract : Prop :=
  (∀ (p q : Platform) (k j : Nat), p.stepAt k = .next q → j ≠ k → q[j]? = p[j]?) ∧
  ∀ (p p' q q' : Platform) (k : Nat), p[k]? = p'[k]? → p.stepAt k = .next q → p'.stepAt k = .next q' → q[k]? = q'[k]?

/-- "Any interleaving of the steps of different instances therefore gives each instance the same final state as running it
alone" (60_exceptions.md section 5), for a schedule that completes. The platform's form, its missing instances among it, is
assumption 11; that one refused step refuses the whole schedule is assumption 20. -/
def Obligations.InterleavingEqualsRunningAlone : Prop :=
  ∀ (ks : List Nat) (p q : Platform), Platform.runSchedule ks p = .next q →
    q.length = p.length ∧
    ∀ (j : Nat) (s : State), p[j]? = some s →
      ∃ t : State, q[j]? = some t ∧ stepMany (ks.count j) s = .next t
end

