-- ==== Sys2Proof/Laws/Assembler.lean ====
section
/-! SUPPORT. What each function of the assembler does to the texts of the printer and to decimal digits. -/

namespace Sys2Proof.Machine

/-- A text whose first and last characters are no blanks keeps both ends. -/
theorem trimBlanks_eq_self (cs : List Char) (hfirst : ∀ c ∈ cs.head?, isBlank c = false)
    (hlast : ∀ c ∈ cs.getLast?, isBlank c = false) : trimBlanks cs = cs := by
  have drop_head : ∀ l : List Char, (∀ c ∈ l.head?, isBlank c = false) → l.dropWhile isBlank = l := by
    intro l h
    cases l with
    | nil => rfl
    | cons c l => simp [List.dropWhile, h c (by simp)]
  unfold trimBlanks
  rw [drop_head cs hfirst, drop_head cs.reverse (by simpa using hlast), List.reverse_reverse]

/-- A text without a semicolon has no comment. -/
theorem stripComment_eq_self (cs : List Char) (h : ';' ∉ cs) : stripComment cs = cs := by
  unfold stripComment
  rw [List.takeWhile_eq_self_iff]
  intro c hc
  simp only [bne_iff_ne, ne_eq]
  rintro rfl
  exact h hc

/-- A text without the separator is one piece. -/
theorem splitAtChar_eq_singleton (sep : Char) (cs : List Char) (h : sep ∉ cs) : splitAtChar sep cs = [cs] := by
  induction cs with
  | nil => rfl
  | cons c cs ih =>
    rw [List.mem_cons, not_or] at h
    simp [splitAtChar, Ne.symm h.1, ih h.2]

/-- The first piece ends at the first separator. -/
theorem splitAtChar_append (sep : Char) (cs rest : List Char) (h : sep ∉ cs) :
    splitAtChar sep (cs ++ sep :: rest) = cs :: splitAtChar sep rest := by
  induction cs with
  | nil => simp [splitAtChar]
  | cons c cs ih =>
    rw [List.mem_cons, not_or] at h
    simp [splitAtChar, Ne.symm h.1, ih h.2]

/-- Every byte is read back from its printed text (R56). -/
theorem parseByte_printByte : ∀ b : Byte, parseByte (printByte b) = .ok b := by decide +kernel

/-- The character of a decimal digit. -/
theorem decDigit_ofNat : ∀ d : Fin 10, decDigit (Char.ofNat (48 + d.val)) = some d.val := by decide

theorem digitChar_plain : ∀ d : Fin 10,
    isBlank (Char.ofNat (48 + d.val)) = false ∧ Char.ofNat (48 + d.val) ≠ ';' ∧ Char.ofNat (48 + d.val) ≠ ',' ∧
      Char.ofNat (48 + d.val) ≠ 'x' := by decide

/-- Decimal digits are read as the number they name. -/
theorem parseDigits_decimal (ds : List (Fin 10)) (acc : Nat) :
    parseDigits 10 decDigit (ds.map fun d => Char.ofNat (48 + d.val)) acc =
      some (ds.foldl (fun acc d => 10 * acc + d.val) acc) := by
  induction ds generalizing acc with
  | nil => rfl
  | cons d ds ih => simp only [List.map_cons, parseDigits, decDigit_ofNat, ih, List.foldl_cons]

/-- A text that is neither empty nor begins with 0x is read in decimal. -/
theorem parseByte_decimal (cs : List Char) (hne : cs ≠ []) (hx : ∀ ds, cs ≠ '0' :: 'x' :: ds) :
    parseByte cs =
      match parseDigits 10 decDigit cs 0 with
      | some n => byteOfNumber n
      | none => .error (.notANumber cs) := by
  unfold parseByte
  split
  · exact absurd rfl (hx _)
  · exact absurd rfl hne
  · rfl

end Sys2Proof.Machine
end

