-- ==== Sys2Proof/Laws/Core.lean ====
section
/-! SUPPORT. The machine behind the host's interface steps as `step` does, any number of times. -/

namespace Sys2Proof.Machine

/-- A machine's k + 1 steps after a step with a next state. -/
theorem core_run_next (M : Host.Core) (k : Nat) (s t : M.State) (h : M.step s = .next t) : M.run (k + 1) s = M.run k t := by
  rw [Host.Core.run, h]

/-- A machine's k + 1 steps end at a refusal. -/
theorem core_run_refused (M : Host.Core) (k : Nat) (s : M.State) (r : M.Refusal) (h : M.step s = .refused r) :
    M.run (k + 1) s = .refused r := by
  rw [Host.Core.run, h]

/-- The host's k steps are the model's k steps. -/
theorem core_run_eq_stepMany (k : Nat) (s : State) : Host.Core.run Sys2Proof.core k s = stepMany k s := by
  induction k generalizing s with
  | zero => rfl
  | succ k ih =>
    unfold stepMany
    cases h : step s with
    | next t => exact (core_run_next Sys2Proof.core k s t h).trans (ih t)
    | fault f => cases f
    | refused r => exact core_run_refused Sys2Proof.core k s r h

end Sys2Proof.Machine
end

