-- ==== Sys2Proof/Laws/PerInstr.lean ====
section
/-! SUPPORT. Per-instruction facts about the encoding (LAWS.json): the fields of each operation's canonical word are the
`op` value of its row in the table of R51 and its operand, 0x00 where it has none (R52). -/

namespace Sys2Proof.Laws.CanonicalFields

/-- The fields that R51 and R52 give the canonical word of the operation. -/
def Statement : Instr → Prop
  | .nop => opField (encode .nop) = 0#3 ∧ dataField (encode .nop) = 0x00#8
  | .consume b => opField (encode (.consume b)) = 1#3 ∧ dataField (encode (.consume b)) = b
  | .reset => opField (encode .reset) = 2#3 ∧ dataField (encode .reset) = 0x00#8
  | .finalize => opField (encode .finalize) = 3#3 ∧ dataField (encode .finalize) = 0x00#8
  | .blockSize => opField (encode .blockSize) = 4#3 ∧ dataField (encode .blockSize) = 0x00#8
  | .codeSize => opField (encode .codeSize) = 5#3 ∧ dataField (encode .codeSize) = 0x00#8
  | .reserved6 => opField (encode .reserved6) = 6#3 ∧ dataField (encode .reserved6) = 0x00#8
  | .reserved7 => opField (encode .reserved7) = 7#3 ∧ dataField (encode .reserved7) = 0x00#8

theorem nop : Statement .nop := ⟨opField_append _ _, dataField_append _ _⟩
theorem consume (b : Byte) : Statement (.consume b) := ⟨opField_append _ _, dataField_append _ _⟩
theorem reset : Statement .reset := ⟨opField_append _ _, dataField_append _ _⟩
theorem finalize : Statement .finalize := ⟨opField_append _ _, dataField_append _ _⟩
theorem blockSize : Statement .blockSize := ⟨opField_append _ _, dataField_append _ _⟩
theorem codeSize : Statement .codeSize := ⟨opField_append _ _, dataField_append _ _⟩
theorem reserved6 : Statement .reserved6 := ⟨opField_append _ _, dataField_append _ _⟩
theorem reserved7 : Statement .reserved7 := ⟨opField_append _ _, dataField_append _ _⟩

end Sys2Proof.Laws.CanonicalFields
end

