-- ==== Sys2Proof/Laws/State.lean ====
section
/-! SUPPORT. The small lemmas of State: what each field is after each named update, so that no later proof unfolds a record
update. -/

namespace Sys2Proof.Machine

@[simp] theorem State.setCp_cp (s : State) (v : Byte) : (s.setCp v).cp = v := rfl
@[simp] theorem State.setCp_lp0 (s : State) (v : Byte) : (s.setCp v).lp0 = s.lp0 := rfl
@[simp] theorem State.setCp_lp1 (s : State) (v : Byte) : (s.setCp v).lp1 = s.lp1 := rfl
@[simp] theorem State.setCp_phase (s : State) (v : Byte) : (s.setCp v).phase = s.phase := rfl
@[simp] theorem State.setCp_inputs (s : State) (v : Byte) : (s.setCp v).inputs = s.inputs := rfl
@[simp] theorem State.setCp_result (s : State) (v : Byte) : (s.setCp v).result = s.result := rfl

@[simp] theorem State.setLp0_cp (s : State) (v : Byte) : (s.setLp0 v).cp = s.cp := rfl
@[simp] theorem State.setLp0_lp0 (s : State) (v : Byte) : (s.setLp0 v).lp0 = v := rfl
@[simp] theorem State.setLp0_lp1 (s : State) (v : Byte) : (s.setLp0 v).lp1 = s.lp1 := rfl
@[simp] theorem State.setLp0_phase (s : State) (v : Byte) : (s.setLp0 v).phase = s.phase := rfl
@[simp] theorem State.setLp0_inputs (s : State) (v : Byte) : (s.setLp0 v).inputs = s.inputs := rfl
@[simp] theorem State.setLp0_result (s : State) (v : Byte) : (s.setLp0 v).result = s.result := rfl

@[simp] theorem State.setLp1_cp (s : State) (v : Byte) : (s.setLp1 v).cp = s.cp := rfl
@[simp] theorem State.setLp1_lp0 (s : State) (v : Byte) : (s.setLp1 v).lp0 = s.lp0 := rfl
@[simp] theorem State.setLp1_lp1 (s : State) (v : Byte) : (s.setLp1 v).lp1 = v := rfl
@[simp] theorem State.setLp1_phase (s : State) (v : Byte) : (s.setLp1 v).phase = s.phase := rfl
@[simp] theorem State.setLp1_inputs (s : State) (v : Byte) : (s.setLp1 v).inputs = s.inputs := rfl
@[simp] theorem State.setLp1_result (s : State) (v : Byte) : (s.setLp1 v).result = s.result := rfl

@[simp] theorem State.setPhase_cp (s : State) (v : Phase) : (s.setPhase v).cp = s.cp := rfl
@[simp] theorem State.setPhase_lp0 (s : State) (v : Phase) : (s.setPhase v).lp0 = s.lp0 := rfl
@[simp] theorem State.setPhase_lp1 (s : State) (v : Phase) : (s.setPhase v).lp1 = s.lp1 := rfl
@[simp] theorem State.setPhase_phase (s : State) (v : Phase) : (s.setPhase v).phase = v := rfl
@[simp] theorem State.setPhase_inputs (s : State) (v : Phase) : (s.setPhase v).inputs = s.inputs := rfl
@[simp] theorem State.setPhase_result (s : State) (v : Phase) : (s.setPhase v).result = s.result := rfl

@[simp] theorem State.answer_cp (s : State) (v : Result) : (s.answer v).cp = s.cp := rfl
@[simp] theorem State.answer_lp0 (s : State) (v : Result) : (s.answer v).lp0 = s.lp0 := rfl
@[simp] theorem State.answer_lp1 (s : State) (v : Result) : (s.answer v).lp1 = s.lp1 := rfl
@[simp] theorem State.answer_phase (s : State) (v : Result) : (s.answer v).phase = s.phase := rfl
@[simp] theorem State.answer_inputs (s : State) (v : Result) : (s.answer v).inputs = s.inputs := rfl
@[simp] theorem State.answer_result (s : State) (v : Result) : (s.answer v).result = v := rfl

@[simp] theorem State.present_cp (s : State) (v : Input) : (s.present v).cp = s.cp := rfl
@[simp] theorem State.present_lp0 (s : State) (v : Input) : (s.present v).lp0 = s.lp0 := rfl
@[simp] theorem State.present_lp1 (s : State) (v : Input) : (s.present v).lp1 = s.lp1 := rfl
@[simp] theorem State.present_phase (s : State) (v : Input) : (s.present v).phase = s.phase := rfl
@[simp] theorem State.present_inputs (s : State) (v : Input) : (s.present v).inputs = v :: s.inputs := rfl
@[simp] theorem State.present_result (s : State) (v : Input) : (s.present v).result = s.result := rfl

@[simp] theorem State.popInput_cp (s : State) : s.popInput.cp = s.cp := rfl
@[simp] theorem State.popInput_lp0 (s : State) : s.popInput.lp0 = s.lp0 := rfl
@[simp] theorem State.popInput_lp1 (s : State) : s.popInput.lp1 = s.lp1 := rfl
@[simp] theorem State.popInput_phase (s : State) : s.popInput.phase = s.phase := rfl
@[simp] theorem State.popInput_inputs (s : State) : s.popInput.inputs = s.inputs.tail := rfl
@[simp] theorem State.popInput_result (s : State) : s.popInput.result = s.result := rfl

@[simp] theorem State.initialise_cp (s : State) : s.initialise.cp = sentinelCp := rfl
@[simp] theorem State.initialise_lp0 (s : State) : s.initialise.lp0 = sentinelLp0 := rfl
@[simp] theorem State.initialise_lp1 (s : State) : s.initialise.lp1 = sentinelLp1 := rfl
@[simp] theorem State.initialise_phase (s : State) : s.initialise.phase = .ready := rfl
@[simp] theorem State.initialise_inputs (s : State) : s.initialise.inputs = s.inputs := rfl
@[simp] theorem State.initialise_result (s : State) : s.initialise.result = s.result := rfl

@[simp] theorem State.hardwareReset_cp (s : State) : s.hardwareReset.cp = sentinelCp := rfl
@[simp] theorem State.hardwareReset_lp0 (s : State) : s.hardwareReset.lp0 = sentinelLp0 := rfl
@[simp] theorem State.hardwareReset_lp1 (s : State) : s.hardwareReset.lp1 = sentinelLp1 := rfl
@[simp] theorem State.hardwareReset_phase (s : State) : s.hardwareReset.phase = .ready := rfl
@[simp] theorem State.hardwareReset_inputs (s : State) : s.hardwareReset.inputs = s.inputs := rfl
@[simp] theorem State.hardwareReset_result (s : State) : s.hardwareReset.result = Result.silent := rfl

@[simp] theorem State.accumulate_cp (s : State) (b : Byte) : (s.accumulate b).cp = s.cp ^^^ columnMask b := by
  unfold State.accumulate; split <;> rfl
@[simp] theorem State.accumulate_lp0 (s : State) (b : Byte) :
    (s.accumulate b).lp0 = if oddParity b then s.lp0 ^^^ not8 b else s.lp0 := by
  unfold State.accumulate; split <;> simp_all
@[simp] theorem State.accumulate_lp1 (s : State) (b : Byte) :
    (s.accumulate b).lp1 = if oddParity b then s.lp1 ^^^ b else s.lp1 := by
  unfold State.accumulate; split <;> simp_all
@[simp] theorem State.accumulate_phase (s : State) (b : Byte) :
    (s.accumulate b).phase = s.phase := by
  unfold State.accumulate; split <;> simp_all
@[simp] theorem State.accumulate_inputs (s : State) (b : Byte) :
    (s.accumulate b).inputs = s.inputs := by
  unfold State.accumulate; split <;> simp_all
@[simp] theorem State.accumulate_result (s : State) (b : Byte) :
    (s.accumulate b).result = s.result := by
  unfold State.accumulate; split <;> simp_all

@[simp] theorem State.nextInput_nil (s : State) (h : s.inputs = []) : s.nextInput = idleInput := by
  simp [State.nextInput, h]

@[simp] theorem State.nextInput_cons (s : State) (i : Input) (is : List Input) (h : s.inputs = i :: is) :
    s.nextInput = i := by
  simp [State.nextInput, h]

/-- Two states with the same six fields are the same state. -/
theorem State.ext_fields (s t : State) (hcp : s.cp = t.cp) (hlp0 : s.lp0 = t.lp0) (hlp1 : s.lp1 = t.lp1)
    (hphase : s.phase = t.phase) (hinputs : s.inputs = t.inputs) (hresult : s.result = t.result) : s = t := by
  cases s; cases t; simp_all

end Sys2Proof.Machine
end

