-- ==== Sys2Proof/Laws/Run.lean ====
section
/-! SUPPORT. What each operation, one clock edge and a run can answer, once each. -/

namespace Sys2Proof.Machine

/-- Everything an operation can answer: the six operations a next state, the reserved ones a refusal. -/
theorem exec_cases (i : Instr) (s : State) :
    (i = .nop ∧ exec i s = .next (s.answer Result.silent)) ∨
    (∃ b, i = .consume b ∧ exec i s = .next (((s.accumulate b).setPhase .accumulating).answer ⟨true, []⟩)) ∨
    (i = .reset ∧ exec i s = .next (s.initialise.answer Result.silent)) ∨
    (i = .finalize ∧ exec i s = .next (s.answer ⟨false, s.code⟩)) ∨
    (i = .blockSize ∧ exec i s = .next (s.answer ⟨false, [blockSizeByte]⟩)) ∨
    (i = .codeSize ∧ exec i s = .next (s.answer ⟨false, [codeSizeByte]⟩)) ∨
    (i = .reserved6 ∧ exec i s = .refused (.reservedCommand 6#3)) ∨
    (i = .reserved7 ∧ exec i s = .refused (.reservedCommand 7#3)) := by
  cases i <;>
    simp [exec, execNop, execConsume, execReset, execFinalize, execBlockSize, execCodeSize, execReserved6, execReserved7]

theorem clock_rst (w : Cmd) (s : State) : clock ⟨true, w⟩ s = .next s.hardwareReset := rfl

theorem clock_cmd (w : Cmd) (s : State) : clock ⟨false, w⟩ s = exec (decode w) s := rfl

/-- The steps that the host presents later are nothing to the present one: what a clock edge answers does not depend on them,
and it leaves them as they are. -/
theorem clock_with_inputs (i : Input) (s t : State) (is : List Input) (h : clock i s = .next t) :
    clock i { s with inputs := is } = .next { t with inputs := is } := by
  obtain ⟨rst, w⟩ := i
  cases rst
  · simp only [clock_cmd] at h ⊢
    generalize decode w = op at h ⊢
    cases op <;>
      simp only [exec, execNop, execConsume, execReset, execFinalize, execBlockSize, execCodeSize, execReserved6,
        execReserved7, Host.Outcome.next.injEq, reduceCtorEq] at h ⊢ <;>
      subst h <;> apply State.ext_fields <;> simp [State.code]
  · cases h; rfl

@[simp] theorem run_nil (s : State) : run [] s = .next (s, []) := rfl

/-- A run goes on after a step that has a next state. -/
theorem run_cons_next (i : Input) (is : List Input) (s t : State) (h : clock i s = .next t) :
    run (i :: is) s =
      match run is t with
      | .next (u, rs) => .next (u, t.result :: rs)
      | .fault r => .fault r
      | .refused r => .refused r := by
  cases hr : run is t <;> simp [run, h, hr]

/-- The results and the registers of a run that goes on after its first step. -/
theorem results_cons_next (i : Input) (is : List Input) (s t : State) (h : clock i s = .next t) :
    resultsOf (run (i :: is) s) = (resultsOf (run is t)).map (fun rs => t.result :: rs) ∧
      regsOf (run (i :: is) s) = regsOf (run is t) := by
  rw [run_cons_next i is s t h]
  rcases run is t with ⟨_, _⟩ | _ | _ <;> exact ⟨rfl, rfl⟩

/-- A run ends at a step that is refused. -/
theorem run_cons_refused (i : Input) (is : List Input) (s : State) (r : Refusal) (h : clock i s = .refused r) :
    run (i :: is) s = .refused r := by
  simp [run, h]

/-- No step of a run faults (R100): there is no fault. -/
theorem run_no_fault (is : List Input) (s : State) (f : Fault) : run is s ≠ .fault f := nomatch f

/-- A run in two parts: the second part goes on from the state the first part leaves, and the results follow each other. -/
theorem run_append (is js : List Input) (s t : State) (rs : List Result) (h : run is s = .next (t, rs)) :
    run (is ++ js) s =
      match run js t with
      | .next (u, rs') => .next (u, rs ++ rs')
      | .fault r => .fault r
      | .refused r => .refused r := by
  induction is generalizing s rs with
  | nil => cases h; simp only [List.nil_append]; rcases run js t with ⟨_, _⟩ | _ | _ <;> rfl
  | cons i is ih =>
    cases hc : clock i s with
    | fault f => cases f
    | refused r => rw [run_cons_refused i is s r hc] at h; cases h
    | next s' =>
      rw [run_cons_next i is s s' hc] at h
      rw [List.cons_append, run_cons_next i _ s s' hc]
      cases hr : run is s' with
      | fault f => cases f
      | refused r => rw [hr] at h; cases h
      | next p =>
        obtain ⟨u, rs₁⟩ := p
        rw [hr] at h
        cases h
        rw [ih s' rs₁ hr]
        rcases run js t with ⟨_, _⟩ | _ | _ <;> rfl

end Sys2Proof.Machine
end

