-- ==== Sys2Proof/Laws/Tables.lean ====
section
/-! SUPPORT. The small lemmas of the two ROMs: each bit of a `COL` entry as a parity (R34), and parity of an exclusive-or. -/

namespace Sys2Proof.Machine

theorem parity_xor (a b : Byte) : parity (a ^^^ b) = (parity a ^^ parity b) := by
  simp only [parity, BitVec.getLsbD_xor]
  cases a.getLsbD 0 <;> cases a.getLsbD 1 <;> cases a.getLsbD 2 <;> cases a.getLsbD 3 <;>
    cases a.getLsbD 4 <;> cases a.getLsbD 5 <;> cases a.getLsbD 6 <;> cases a.getLsbD 7 <;> simp

theorem bitAt_getLsbD (j k : Nat) (p : Bool) (h : k < 8) : (bitAt j p).getLsbD k = (p && decide (k = j)) := by
  unfold bitAt
  cases p
  · simp
  · simp only [↓reduceIte, Bool.true_and, BitVec.getLsbD_shiftLeft]
    by_cases hk : k < j
    · simp [hk, Nat.ne_of_lt hk]
    · by_cases he : k = j
      · subst he; simp [h]
      · have : k - j ≠ 0 := by omega
        simp [he, hk, h, this]

/-- A bit of the packed parities below or above the selectors' positions is 0; at a selector's position it is that selector's
parity. -/
theorem packParities_getLsbD (v : Byte) (sels : List Byte) (j k : Nat) (h : k < 8) :
    (packParities v sels j).getLsbD k =
      (decide (j ≤ k) && decide (k - j < sels.length) && parRom (v &&& sels.getD (k - j) 0#8)) := by
  induction sels generalizing j with
  | nil => simp [packParities]
  | cons sel sels ih =>
    simp only [packParities, BitVec.getLsbD_or, bitAt_getLsbD _ _ _ h, ih]
    by_cases hk : k = j
    · subst hk; simp
    · by_cases hlt : j < k
      · obtain ⟨d, rfl⟩ : ∃ d, k = j + 1 + d := ⟨k - j - 1, by omega⟩
        have e1 : j + 1 + d - (j + 1) = d := by omega
        have e2 : j + 1 + d - j = d + 1 := by omega
        have e3 : ¬ j + 1 + d = j := by omega
        have e4 : j + 1 ≤ j + 1 + d := by omega
        have e5 : j ≤ j + 1 + d := by omega
        rw [e1, e2]
        simp [e3, e4, e5]
      · have e1 : ¬ j + 1 ≤ k := by omega
        have e2 : ¬ j ≤ k := by omega
        simp [hk, e1, e2]

/-- Bit `k` of `COL[v]` is the parity of `v` under selector `k`; bit 7 is 0 (R34). -/
theorem colRom_getLsbD (v : Byte) (k : Nat) (h : k < 8) :
    (colRom v).getLsbD k = (decide (k < 7) && parRom (v &&& selectors.getD k 0#8)) := by
  unfold colRom
  rw [packParities_getLsbD v selectors 0 k h]
  simp [selectors]

end Sys2Proof.Machine
end

