-- ==== Sys2Proof/Tests/Slice0.lean ====
section
/-! SUPPORT. The model's own tests: ill-formed terms that the checks refuse, words decoded from the spec's encodings, the spec's
vectors of 95_test_vectors.md one step at a time, the ROM listings of R45 and R46, and for every statement that has
hypotheses a state and operands that meet them (the theorems named `witness_`). -/

namespace Sys2Proof.Machine

/-! ## Ill-formed terms -/

theorem test_wf_refuses_reserved6 : Instr.wf .reserved6 = false := by decide
theorem test_wf_refuses_reserved7 : Instr.wf .reserved7 = false := by decide
theorem test_wf_takes_every_consume : ∀ b : Byte, Instr.wf (.consume b) = true := by decide
theorem test_command_number_refuses_2048 : isCommandNumber 2048 = false ∧ isCommandNumber 2047 = true := by decide
theorem test_byte_number_refuses_256 : isByteNumber 256 = false ∧ isByteNumber 255 = true := by decide

/-! ## Words written out from R51's table: `op`, then `data` -/

theorem test_decode_nop : decode 0b000_00000000#11 = .nop := by decide
theorem test_decode_nop_ignores_data : decode 0b000_10100111#11 = .nop := by decide
theorem test_decode_consume : decode 0b001_10100110#11 = .consume 0xA6#8 := by decide
theorem test_decode_reset : decode 0b010_11111111#11 = .reset := by decide
theorem test_decode_finalize : decode 0b011_00000000#11 = .finalize := by decide
theorem test_decode_blockSize : decode 0b100_00000000#11 = .blockSize := by decide
theorem test_decode_codeSize : decode 0b101_11111111#11 = .codeSize := by decide
theorem test_decode_reserved6 : decode 0b110_00000000#11 = .reserved6 := by decide
theorem test_decode_reserved7 : decode 0b111_11111111#11 = .reserved7 := by decide
theorem test_decode_number_refuses_2048 : decodeNumber 2048 = .error (.notElevenBits 2048) := by decide
theorem test_table_word_consume : decodeTableWord 16 0x1FF = some (.consume 0xFF#8) := by decide

/-! ## The ROM listings -/

/-- The listing of R45, row by row. -/
def parListing : List Bool :=
  [false, true, true, false, true, false, false, true, true, false, false, true, false, true, true, false] ++
  [true, false, false, true, false, true, true, false, false, true, true, false, true, false, false, true] ++
  [true, false, false, true, false, true, true, false, false, true, true, false, true, false, false, true] ++
  [false, true, true, false, true, false, false, true, true, false, false, true, false, true, true, false] ++
  [true, false, false, true, false, true, true, false, false, true, true, false, true, false, false, true] ++
  [false, true, true, false, true, false, false, true, true, false, false, true, false, true, true, false] ++
  [false, true, true, false, true, false, false, true, true, false, false, true, false, true, true, false] ++
  [true, false, false, true, false, true, true, false, false, true, true, false, true, false, false, true] ++
  [true, false, false, true, false, true, true, false, false, true, true, false, true, false, false, true] ++
  [false, true, true, false, true, false, false, true, true, false, false, true, false, true, true, false] ++
  [false, true, true, false, true, false, false, true, true, false, false, true, false, true, true, false] ++
  [true, false, false, true, false, true, true, false, false, true, true, false, true, false, false, true] ++
  [false, true, true, false, true, false, false, true, true, false, false, true, false, true, true, false] ++
  [true, false, false, true, false, true, true, false, false, true, true, false, true, false, false, true] ++
  [true, false, false, true, false, true, true, false, false, true, true, false, true, false, false, true] ++
  [false, true, true, false, true, false, false, true, true, false, false, true, false, true, true, false]

/-- The listing of R46, row by row. -/
def colListing : List Byte :=
  [0x00#8, 0x07#8, 0x16#8, 0x11#8, 0x25#8, 0x22#8, 0x33#8, 0x34#8, 0x34#8, 0x33#8, 0x22#8, 0x25#8, 0x11#8, 0x16#8, 0x07#8, 0x00#8] ++
  [0x43#8, 0x44#8, 0x55#8, 0x52#8, 0x66#8, 0x61#8, 0x70#8, 0x77#8, 0x77#8, 0x70#8, 0x61#8, 0x66#8, 0x52#8, 0x55#8, 0x44#8, 0x43#8] ++
  [0x52#8, 0x55#8, 0x44#8, 0x43#8, 0x77#8, 0x70#8, 0x61#8, 0x66#8, 0x66#8, 0x61#8, 0x70#8, 0x77#8, 0x43#8, 0x44#8, 0x55#8, 0x52#8] ++
  [0x11#8, 0x16#8, 0x07#8, 0x00#8, 0x34#8, 0x33#8, 0x22#8, 0x25#8, 0x25#8, 0x22#8, 0x33#8, 0x34#8, 0x00#8, 0x07#8, 0x16#8, 0x11#8] ++
  [0x61#8, 0x66#8, 0x77#8, 0x70#8, 0x44#8, 0x43#8, 0x52#8, 0x55#8, 0x55#8, 0x52#8, 0x43#8, 0x44#8, 0x70#8, 0x77#8, 0x66#8, 0x61#8] ++
  [0x22#8, 0x25#8, 0x34#8, 0x33#8, 0x07#8, 0x00#8, 0x11#8, 0x16#8, 0x16#8, 0x11#8, 0x00#8, 0x07#8, 0x33#8, 0x34#8, 0x25#8, 0x22#8] ++
  [0x33#8, 0x34#8, 0x25#8, 0x22#8, 0x16#8, 0x11#8, 0x00#8, 0x07#8, 0x07#8, 0x00#8, 0x11#8, 0x16#8, 0x22#8, 0x25#8, 0x34#8, 0x33#8] ++
  [0x70#8, 0x77#8, 0x66#8, 0x61#8, 0x55#8, 0x52#8, 0x43#8, 0x44#8, 0x44#8, 0x43#8, 0x52#8, 0x55#8, 0x61#8, 0x66#8, 0x77#8, 0x70#8] ++
  [0x70#8, 0x77#8, 0x66#8, 0x61#8, 0x55#8, 0x52#8, 0x43#8, 0x44#8, 0x44#8, 0x43#8, 0x52#8, 0x55#8, 0x61#8, 0x66#8, 0x77#8, 0x70#8] ++
  [0x33#8, 0x34#8, 0x25#8, 0x22#8, 0x16#8, 0x11#8, 0x00#8, 0x07#8, 0x07#8, 0x00#8, 0x11#8, 0x16#8, 0x22#8, 0x25#8, 0x34#8, 0x33#8] ++
  [0x22#8, 0x25#8, 0x34#8, 0x33#8, 0x07#8, 0x00#8, 0x11#8, 0x16#8, 0x16#8, 0x11#8, 0x00#8, 0x07#8, 0x33#8, 0x34#8, 0x25#8, 0x22#8] ++
  [0x61#8, 0x66#8, 0x77#8, 0x70#8, 0x44#8, 0x43#8, 0x52#8, 0x55#8, 0x55#8, 0x52#8, 0x43#8, 0x44#8, 0x70#8, 0x77#8, 0x66#8, 0x61#8] ++
  [0x11#8, 0x16#8, 0x07#8, 0x00#8, 0x34#8, 0x33#8, 0x22#8, 0x25#8, 0x25#8, 0x22#8, 0x33#8, 0x34#8, 0x00#8, 0x07#8, 0x16#8, 0x11#8] ++
  [0x52#8, 0x55#8, 0x44#8, 0x43#8, 0x77#8, 0x70#8, 0x61#8, 0x66#8, 0x66#8, 0x61#8, 0x70#8, 0x77#8, 0x43#8, 0x44#8, 0x55#8, 0x52#8] ++
  [0x43#8, 0x44#8, 0x55#8, 0x52#8, 0x66#8, 0x61#8, 0x70#8, 0x77#8, 0x77#8, 0x70#8, 0x61#8, 0x66#8, 0x52#8, 0x55#8, 0x44#8, 0x43#8] ++
  [0x00#8, 0x07#8, 0x16#8, 0x11#8, 0x25#8, 0x22#8, 0x33#8, 0x34#8, 0x34#8, 0x33#8, 0x22#8, 0x25#8, 0x11#8, 0x16#8, 0x07#8, 0x00#8]

theorem test_par_listing : (List.range 256).map (fun n => parRom (BitVec.ofNat 8 n)) = parListing := by decide +kernel
theorem test_col_listing : (List.range 256).map (fun n => colRom (BitVec.ofNat 8 n)) = colListing := by decide +kernel

/-! ## One step of each operation (95_test_vectors.md sections 2 and 3) -/

/-- A state with the given registers. -/
def withRegs (cp lp0 lp1 : Byte) : State := { State.reset with cp := cp, lp0 := lp0, lp1 := lp1 }

/-- The registers and the result of the step that presents the command word `w`. -/
def afterWord (w : Cmd) (s : State) : Option ((Byte × Byte × Byte) × Result) :=
  match step (s.present ⟨false, w⟩) with
  | .next t => some (t.regs, t.result)
  | .fault _ => none
  | .refused _ => none

/-- K1. -/
theorem test_nop : afterWord 0x000 (withRegs 0x70 0x81 0x7E) = some ((0x70, 0x81, 0x7E), ⟨false, []⟩) := by decide
/-- V4. -/
theorem test_consume_01 : afterWord 0x101 State.reset = some ((0x70, 0x81, 0x7E), ⟨true, []⟩) := by decide
/-- K8, an unreachable state. -/
theorem test_consume_01_ones :
    afterWord 0x101 (withRegs 0xFF 0xFF 0xFF) = some ((0xF8, 0x01, 0xFE), ⟨true, []⟩) := by decide
/-- K2. -/
theorem test_reset : afterWord 0x200 (withRegs 0x07 0x00 0xFF) = some ((0x77, 0x7F, 0x7F), ⟨false, []⟩) := by decide
/-- K7: only the second byte is masked. -/
theorem test_finalize_ones :
    afterWord 0x300 (withRegs 0xFF 0xFF 0xFF) = some ((0xFF, 0xFF, 0xFF), ⟨false, [0xFF, 0x7F, 0xFF]⟩) := by decide
/-- P4's state after 0x01, 0x02. -/
theorem test_finalize_m1 :
    afterWord 0x300 (withRegs 0x66 0x7C 0x7C) = some ((0x66, 0x7C, 0x7C), ⟨false, [0x66, 0x7C, 0x7C]⟩) := by decide
/-- K4. -/
theorem test_blockSize :
    afterWord 0x400 (withRegs 0x43 0xB4 0x4B) = some ((0x43, 0xB4, 0x4B), ⟨false, [0x01]⟩) := by decide
/-- K5. -/
theorem test_codeSize :
    afterWord 0x500 (withRegs 0x43 0xB4 0x4B) = some ((0x43, 0xB4, 0x4B), ⟨false, [0x03]⟩) := by decide
/-- R53: reserved words are refused, never taken for NOP. -/
theorem test_reserved6_refused : afterWord 0x600 State.reset = none := by decide
theorem test_reserved7_refused : afterWord 0x7FF State.reset = none := by decide
/-- R104: `rst` wins over a reserved command. -/
theorem test_rst_wins :
    clock ⟨true, 0x7FF⟩ (withRegs 0x07 0x00 0xFF) = .next State.reset := rfl
/-- The empty queue idles. -/
theorem test_idle : step State.reset = .next State.reset := rfl
/-- R55 on the ports. -/
theorem test_ports_finalize : outputs ⟨false, 0x300⟩ (withRegs 0x07 0xFF 0x00) = ⟨false, 3, 0x07, 0x7F, 0x00⟩ := by decide
theorem test_ports_codeSize : outputs ⟨false, 0x500⟩ State.reset = ⟨false, 1, 0x03, 0x00, 0x00⟩ := by decide

/-! ## The caller and the assembler -/

/-- P6, host view: the prefix with the code appended. -/
theorem test_finalize_call :
    (match call (.finalize [0x50, 0x53, 0x32]) (withRegs 0x61 0xB2 0x4D) with
      | .next (_, r) => decide (r = .buffer [0x50, 0x53, 0x32, 0x61, 0x32, 0x4D])
      | .fault _ => false
      | .refused _ => false) = true := by decide
theorem test_consume_call_counts :
    (match call (.consume [0x12, 0x34]) State.reset with
      | .next (t, r) => decide (r = .count 2 ∧ t.regs = (0x16, 0xB4, 0x4B))
      | .fault _ => false
      | .refused _ => false) = true := by decide
theorem test_assemble_consume :
    assembleLine ['C', 'O', 'N', 'S', 'U', 'M', 'E', ' ', '0', 'x', 'f', 'F', ' ', ';', ' ', 'b'] = .ok [⟨false, 0x1FF⟩] := by
  decide
theorem test_assemble_consumes :
    assembleLine ['C', 'O', 'N', 'S', 'U', 'M', 'E', 'S', ' ', '0', 'x', '1', ',', ' ', '2', '5', '5'] =
      .ok [⟨false, 0x101⟩, ⟨false, 0x1FF⟩] := by decide
theorem test_assemble_out_of_range :
    assembleLine ['C', 'O', 'N', 'S', 'U', 'M', 'E', ' ', '2', '5', '6'] = .error (.outOfRange 256) := by decide
theorem test_assemble_operand_refused :
    assembleLine ['N', 'O', 'P', ' ', '1'] = .error (.operandCount 1) := by decide
theorem test_assemble_text :
    assembleText ['R', 'E', 'S', 'E', 'T', '\n', ';', '\n', 'C', 'O', 'D', 'E', 'S', 'I', 'Z', 'E'] =
      .ok [⟨false, 0x200⟩, ⟨false, 0x500⟩] := by decide

/-! ## States and operands that meet the hypotheses of the statements -/

theorem witness_OperandIsDataAsItStands :
    (0x200#11 : Cmd).toNat / 256 = (0x2FF#11 : Cmd).toNat / 256 ∧ (0x200#11 : Cmd).toNat / 256 ≠ 1 := by decide
theorem witness_ReservedWordsAreRefused :
    0x600 ≤ (0x600#11 : Cmd).toNat ∧ 0x600 ≤ (0x7FF#11 : Cmd).toNat ∧ (0x000#11 : Cmd).toNat < 0x600 ∧
      (0x5FF#11 : Cmd).toNat < 0x600 := by decide
theorem witness_ShiftAndXorReductionIsParity :
    ∃ v v₁ v₂ v₃ : Byte, v₁ = v ^^^ (v >>> 1) ∧ v₂ = v₁ ^^^ (v₁ >>> 2) ∧ v₃ = v₂ ^^^ (v₂ >>> 4) ∧ v = 0x80#8 :=
  ⟨0x80#8, _, _, _, rfl, rfl, rfl, rfl⟩
theorem witness_RomsAreLinear : (0 : Nat) < 8 ∧ (7 : Nat) < 8 := by decide
theorem witness_NopHoldsTheState :
    (0x000#11 : Cmd).toNat / 256 = 0 ∧ (0x0FF#11 : Cmd).toNat / 256 = 0 ∧
      (withRegs 0x70 0x81 0x7E).regs = (0x70#8, 0x81#8, 0x7E#8) := by decide
theorem witness_ResetWritesTheSentinel :
    (0x2FF#11 : Cmd).toNat / 256 = 2 ∧ ∃ t, exec .reset (withRegs 0x07 0x00 0xFF) = .next t := ⟨by decide, _, rfl⟩
theorem witness_BlockSizeAnswersOne : (0x4FF#11 : Cmd).toNat / 256 = 4 := by decide
theorem witness_CodeSizeAnswersThree : (0x5FF#11 : Cmd).toNat / 256 = 5 := by decide
theorem witness_ConsumeAccumulatesTheByte :
    (0x100#11 : Cmd).toNat / 256 = 1 ∧ (0x1FF#11 : Cmd).toNat / 256 = 1 ∧ colRom 0x0F#8 = 0x00#8 := by decide
theorem witness_FinalizeEmitsTheCode :
    (0x3FF#11 : Cmd).toNat / 256 = 3 ∧ (withRegs 0x70 0x81 0x7E).regs = (0x70#8, 0x81#8, 0x7E#8) := by decide
theorem witness_RegisterWritersAndReaders_others :
    ∃ t, exec .finalize (withRegs 0x70 0x81 0x7E) = .next t ∧ Instr.finalize ≠ .reset ∧ ∀ b, Instr.finalize ≠ .consume b :=
  ⟨_, rfl, by decide, by decide⟩
theorem witness_RegisterWritersAndReaders_even :
    parRom 0x03#8 = false ∧ ∃ t, exec (.consume 0x03#8) State.reset = .next t := ⟨by decide, _, rfl⟩
theorem witness_RegisterWritersAndReaders_two :
    ∃ t t', exec (.consume 0x01#8) (withRegs 0x77 0x81 0x7E) = .next t ∧
      exec (.consume 0x01#8) (withRegs 0x77 0x00 0x7E) = .next t' ∧
      (withRegs 0x77 0x81 0x7E).cp = (withRegs 0x77 0x00 0x7E).cp ∧
      (withRegs 0x77 0x81 0x7E).lp1 = (withRegs 0x77 0x00 0x7E).lp1 ∧ Instr.consume 0x01#8 ≠ .finalize :=
  ⟨_, _, rfl, rfl, rfl, rfl, by decide⟩
theorem witness_ResultOfEachOperation : ∃ t, clock ⟨false, 0x300⟩ State.reset = .next t := ⟨_, rfl⟩
theorem witness_PortsCarryTheResult :
    (∃ t, clock ⟨false, 0x101⟩ State.reset = .next t) ∧ (0x000#11 : Cmd).toNat < 0x600 ∧ (0x1FF#11 : Cmd).toNat < 0x600 ∧
      (0x200#11 : Cmd).toNat < 0x600 ∧ (0x3FF#11 : Cmd).toNat < 0x600 ∧ (0x400#11 : Cmd).toNat < 0x600 ∧
      (0x5FF#11 : Cmd).toNat < 0x600 := ⟨⟨_, rfl⟩, by decide⟩
theorem witness_OutputsAreCombinational :
    State.reset.regs = (State.reset.setPhase .accumulating).regs ∧ State.reset ≠ State.reset.setPhase .accumulating := by
  decide
theorem witness_PhaseIsAGhost_exec :
    (∃ t, exec .reset State.reset = .next t) ∧ (∃ t, exec (.consume 0x00#8) State.reset = .next t) ∧
      (∃ t, exec .nop State.reset = .next t) ∧ ∃ t, clock ⟨true, 0x600⟩ State.reset = .next t :=
  ⟨⟨_, rfl⟩, ⟨_, rfl⟩, ⟨_, rfl⟩, ⟨_, rfl⟩⟩
theorem witness_PhaseIsAGhost_run :
    beginsWithReset [constructInput] = true ∧
      ∃ t rs, run [constructInput] (withRegs 0x07 0x00 0xFF) = .next (t, rs) ∧ t.phase = .ready :=
  ⟨rfl, _, _, rfl, rfl⟩
theorem witness_MaskOnlyAtOutput : (7 : Nat) < 8 ∧ (6 : Nat) < 7 := by decide
theorem witness_HardwareResetFromAnyState :
    ([⟨true, 0x7FF⟩, ⟨true, 0x101⟩] : List Input) ≠ [] ∧
      ∀ i ∈ ([⟨true, 0x7FF⟩, ⟨true, 0x101⟩] : List Input), i.rst = true := by decide
theorem witness_StepRunsThePresentedCommand :
    (State.reset.present ⟨true, 0x7FF⟩).inputs = ⟨true, 0x7FF⟩ :: [] ∧
      (State.reset.present ⟨false, 0x5FF⟩).inputs = ⟨false, 0x5FF⟩ :: [] ∧ (decode 0x5FF).wf = true ∧
      (State.reset.present ⟨false, 0x600⟩).inputs = ⟨false, 0x600⟩ :: [] ∧ (decode 0x600).wf = false := by decide
theorem witness_EmptyQueueIdles : State.reset.inputs = [] := rfl
theorem witness_ClockEdgeTakesResetOrCommand : (decode 0x5FF).wf = true ∧ (decode 0x600).wf = false := by decide
theorem witness_OnlyReservedCommandsStop :
    (∃ r, clock ⟨false, 0x600⟩ State.reset = .refused r) ∧ (∃ t, clock ⟨false, 0x5FF⟩ State.reset = .next t) ∧
      (∃ t, clock ⟨true, 0x600⟩ State.reset = .next t) ∧ 0x600 ≤ (0x600#11 : Cmd).toNat ∧ (0x5FF#11 : Cmd).toNat < 0x600 ∧
      Instr.wf (.consume 0xFF#8) = true := ⟨⟨_, rfl⟩, ⟨_, rfl⟩, ⟨_, rfl⟩, by decide⟩
theorem witness_StepKeepsTheInvariant :
    (State.reset.present ⟨false, 0x101⟩).invariant = true ∧ ∃ t, step (State.reset.present ⟨false, 0x101⟩) = .next t :=
  ⟨by decide, _, rfl⟩
theorem witness_ReachableTriplesAreTheLawful :
    syndromeLaws 0x70 0x81 0x7E = true ∧
      ∃ t rs, run [constructInput, ⟨false, 0x101⟩] State.reset = .next (t, rs) ∧ t.regs = (0x70, 0x81, 0x7E) :=
  ⟨by decide, _, _, rfl, by decide⟩
theorem witness_CodeInClosedForm :
    ∃ (x y : Byte) (odd : Bool), x = xorAll [0x01#8, 0x03#8] ∧ y = xorAll (oddBytes [0x01#8, 0x03#8]) ∧
      odd = decide ((oddBytes [0x01#8, 0x03#8]).length % 2 = 1) := ⟨_, _, _, rfl, rfl, rfl⟩
theorem witness_ByteOrderDoesNotMatter : [0x01#8, 0x02#8].Perm [0x02#8, 0x01#8] := List.Perm.swap _ _ _
theorem witness_SplittingDoesNotMatter :
    ∀ i ∈ ([⟨false, 0x000⟩, ⟨false, 0x300⟩, ⟨false, 0x400⟩, ⟨false, 0x5FF⟩] : List Input),
      i.writesNoRegister = true := by decide
theorem witness_OnlyOddOccurrencesCount :
    ∀ b : Byte, [0x01#8, 0x02#8, 0x01#8].count b % 2 = [0x02#8].count b % 2 := by decide +kernel
theorem witness_IdentityBytesAreTheSixteen :
    parRom 0x01#8 = true ∧ parRom 0x03#8 = false ∧ (withRegs 0x70 0x81 0x7E).regs ≠ State.reset.regs := by decide
theorem witness_FlippedBitShowsInCp : (0 : Nat) < 8 ∧ (7 : Nat) < 8 := by decide
theorem witness_FinalizeDisturbsNothing :
    ∀ i ∈ ([⟨false, 0x300⟩, ⟨false, 0x0A7⟩] : List Input), i.writesNoRegister = true := by decide
theorem witness_ResetForgetsTheHistory :
    Input.resets ⟨true, 0x600⟩ = true ∧ Input.resets ⟨false, 0x2FF⟩ = true := by decide
theorem witness_LegalRunsNeverStop :
    ∀ i ∈ ([⟨true, 0x7FF⟩, ⟨false, 0x5FF⟩, ⟨false, 0x1AB⟩] : List Input), i.legal = true := by decide
theorem witness_QueueRunIsRunOfInputs :
    (State.reset.present ⟨false, 0x101⟩).inputs = [⟨false, 0x101⟩] ++ [] := rfl
theorem witness_NopStepsAreInvisible :
    ∃ t rs, run [⟨false, 0x000⟩, ⟨false, 0x101⟩, ⟨false, 0x0FF⟩] State.reset = .next (t, rs) := ⟨_, _, rfl⟩
theorem witness_HiddenBitsAreUnobservable :
    (withRegs 0x77 0xFF 0x7F).cp = State.reset.cp ∧ (withRegs 0x77 0xFF 0x7F).lp0 &&& 0x7F = State.reset.lp0 &&& 0x7F ∧
      (withRegs 0x77 0xFF 0x7F).lp1 = State.reset.lp1 ∧ (withRegs 0x77 0xFF 0x7F).lp0 ≠ State.reset.lp0 := by decide
theorem witness_AssemblerInvertsPrinter :
    Instr.wf (.consume 0x00#8) = true ∧ Instr.wf .reserved6 = false ∧ 255 < 256 ∧
      ([2, 5, 5] : List (Fin 10)) ≠ [] ∧ 255 = ([2, 5, 5] : List (Fin 10)).foldl (fun acc d => 10 * acc + d.val) 0 ∧
      ([2, 5, 6] : List (Fin 10)) ≠ [] ∧ 256 = ([2, 5, 6] : List (Fin 10)).foldl (fun acc d => 10 * acc + d.val) 0 := by
  decide
theorem witness_InstancesDoNotInteract :
    (∃ q, Platform.stepAt [State.reset, State.reset.present ⟨false, 0x101⟩] 1 = .next q) ∧ (0 : Nat) ≠ 1 ∧
      ([State.reset, State.reset.present ⟨false, 0x101⟩] : Platform)[1]? =
        ([withRegs 0x07 0x00 0xFF, State.reset.present ⟨false, 0x101⟩] : Platform)[1]? ∧
      ∃ q, Platform.stepAt [withRegs 0x07 0x00 0xFF, State.reset.present ⟨false, 0x101⟩] 1 = .next q :=
  ⟨⟨_, rfl⟩, by decide, rfl, ⟨_, rfl⟩⟩
theorem witness_InterleavingEqualsRunningAlone :
    (∃ q, Platform.runSchedule [0, 1, 0] [State.reset, withRegs 0x07 0x00 0xFF] = .next q) ∧
      ([State.reset, withRegs 0x07 0x00 0xFF] : Platform)[1]? = some (withRegs 0x07 0x00 0xFF) := ⟨⟨_, rfl⟩, rfl⟩

end Sys2Proof.Machine
end

/-! PROOFS. The state family (spec/10_state.md): what the operations write and read, the ghost phase, the running
exclusive-ors of a stream. First the rules that the proofs share, then the obligations. -/

namespace Sys2Proof.Machine

/-! ## The registers after each named update -/

section Registers

variable (s : State)

@[simp] theorem State.answer_regs (r : Result) : (s.answer r).regs = s.regs := rfl
@[simp] theorem State.setPhase_regs (p : Phase) : (s.setPhase p).regs = s.regs := rfl
@[simp] theorem State.initialise_regs : s.initialise.regs = (sentinelCp, sentinelLp0, sentinelLp1) := rfl
@[simp] theorem State.hardwareReset_regs : s.hardwareReset.regs = (sentinelCp, sentinelLp0, sentinelLp1) := rfl

/-- Two states hold the same registers when each register is the same. -/
theorem State.regs_eq_iff (s t : State) : s.regs = t.regs ↔ s.cp = t.cp ∧ s.lp0 = t.lp0 ∧ s.lp1 = t.lp1 := by
  simp [State.regs]

/-- The code is read from the registers and nothing else (R90). -/
theorem State.code_congr (s t : State) (h : s.regs = t.regs) : s.code = t.code := by
  obtain ⟨hcp, hlp0, hlp1⟩ := (State.regs_eq_iff s t).mp h
  simp [State.code, hcp, hlp0, hlp1]

end Registers

/-! ## What one operation does -/

section Operations

/-- The state after CONSUME `b` (R80). -/
def State.consumeByte (s : State) (b : Byte) : State :=
  ((s.accumulate b).setPhase .accumulating).answer ⟨true, []⟩

@[simp] theorem State.consumeByte_cp (s : State) (b : Byte) : (s.consumeByte b).cp = s.cp ^^^ colRom b :=
  State.accumulate_cp s b

@[simp] theorem State.consumeByte_lp0 (s : State) (b : Byte) :
    (s.consumeByte b).lp0 = if parRom b then s.lp0 ^^^ not8 b else s.lp0 :=
  State.accumulate_lp0 s b

@[simp] theorem State.consumeByte_lp1 (s : State) (b : Byte) :
    (s.consumeByte b).lp1 = if parRom b then s.lp1 ^^^ b else s.lp1 :=
  State.accumulate_lp1 s b

@[simp] theorem State.consumeByte_phase (s : State) (b : Byte) : (s.consumeByte b).phase = .accumulating := rfl
@[simp] theorem State.consumeByte_inputs (s : State) (b : Byte) : (s.consumeByte b).inputs = s.inputs :=
  State.accumulate_inputs s b
@[simp] theorem State.consumeByte_result (s : State) (b : Byte) : (s.consumeByte b).result = ⟨true, []⟩ := rfl

/-- Equal registers stay equal when the same byte is consumed. -/
theorem State.consumeByte_regs_congr (s s' : State) (b : Byte) (h : s.regs = s'.regs) :
    (s.consumeByte b).regs = (s'.consumeByte b).regs := by
  obtain ⟨hcp, hlp0, hlp1⟩ := (State.regs_eq_iff s s').mp h
  simp [State.regs, hcp, hlp0, hlp1]

theorem exec_consume (b : Byte) (s : State) : exec (.consume b) s = .next (s.consumeByte b) := rfl
theorem exec_reset (s : State) : exec .reset s = .next (s.initialise.answer Result.silent) := rfl
theorem exec_finalize (s : State) : exec .finalize s = .next (s.answer ⟨false, s.code⟩) := rfl

/-- The kinds of operations, each with what it does from every state: the reserved ones are refused; RESET and CONSUME write
registers (R14); FINALIZE changes the result only, and reads the registers for it; the others change the result only, to a
constant. -/
theorem exec_kinds (i : Instr) :
    (∃ op, ∀ s, exec i s = .refused (.reservedCommand op)) ∨
    (i = .reset ∧ ∀ s, exec i s = .next (s.initialise.answer Result.silent)) ∨
    (∃ b, i = .consume b ∧ ∀ s, exec i s = .next (s.consumeByte b)) ∨
    (i = .finalize ∧ ∀ s, exec i s = .next (s.answer ⟨false, s.code⟩)) ∨
    (∃ r, i ≠ .reset ∧ (∀ b, i ≠ .consume b) ∧ i ≠ .finalize ∧ ∀ s, exec i s = .next (s.answer r)) := by
  cases i with
  | reserved6 => exact .inl ⟨6#3, fun _ => rfl⟩
  | reserved7 => exact .inl ⟨7#3, fun _ => rfl⟩
  | reset => exact .inr (.inl ⟨rfl, exec_reset⟩)
  | consume b => exact .inr (.inr (.inl ⟨b, rfl, exec_consume b⟩))
  | finalize => exact .inr (.inr (.inr (.inl ⟨rfl, exec_finalize⟩)))
  | nop => exact .inr (.inr (.inr (.inr ⟨Result.silent, by simp, by simp, by simp, fun _ => rfl⟩)))
  | blockSize => exact .inr (.inr (.inr (.inr ⟨⟨false, [blockSizeByte]⟩, by simp, by simp, by simp, fun _ => rfl⟩)))
  | codeSize => exact .inr (.inr (.inr (.inr ⟨⟨false, [codeSizeByte]⟩, by simp, by simp, by simp, fun _ => rfl⟩)))

/-- An operation other than RESET and CONSUME changes the result only (R14). -/
theorem exec_next_of_not_writer (i : Instr) (s t : State) (h : exec i s = .next t) (hreset : i ≠ .reset)
    (hconsume : ∀ b, i ≠ .consume b) : t = s.answer t.result := by
  rcases exec_kinds i with ⟨op, hi⟩ | ⟨rfl, -⟩ | ⟨b, rfl, -⟩ | ⟨-, hi⟩ | ⟨r, -, -, -, hi⟩
  · rw [hi] at h; cases h
  · exact absurd rfl hreset
  · exact absurd rfl (hconsume b)
  · rw [hi] at h; cases h; rfl
  · rw [hi] at h; cases h; rfl

/-- A register after an operation depends on that register alone, and the result, but for FINALIZE's, on none (R14). -/
theorem exec_register_congr (i : Instr) (s s' t t' : State) (h : exec i s = .next t) (h' : exec i s' = .next t') :
    (s.cp = s'.cp → t.cp = t'.cp) ∧ (s.lp0 = s'.lp0 → t.lp0 = t'.lp0) ∧ (s.lp1 = s'.lp1 → t.lp1 = t'.lp1) ∧
    (i ≠ .finalize → t.result = t'.result) := by
  rcases exec_kinds i with ⟨op, hi⟩ | ⟨-, hi⟩ | ⟨b, -, hi⟩ | ⟨rfl, hi⟩ | ⟨r, -, -, -, hi⟩ <;>
    rw [hi] at h h' <;> cases h <;> cases h'
  · simp
  · simp +contextual
  · simp
  · simp

/-- An operation reads nothing but the registers: from equal registers it answers the same result with equal registers, or the
same refusal. -/
theorem exec_regs_congr (i : Instr) (s s' : State) (h : s.regs = s'.regs) :
    (∃ t t', exec i s = .next t ∧ exec i s' = .next t' ∧ t.regs = t'.regs ∧ t.result = t'.result) ∨
    ∃ r, exec i s = .refused r ∧ exec i s' = .refused r := by
  rcases exec_kinds i with ⟨op, hi⟩ | ⟨-, hi⟩ | ⟨b, -, hi⟩ | ⟨-, hi⟩ | ⟨r, -, -, -, hi⟩
  · exact .inr ⟨_, hi s, hi s'⟩
  · exact .inl ⟨_, _, hi s, hi s', rfl, rfl⟩
  · exact .inl ⟨_, _, hi s, hi s', State.consumeByte_regs_congr s s' b h, rfl⟩
  · exact .inl ⟨_, _, hi s, hi s', h, by simp [State.code_congr s s' h]⟩
  · exact .inl ⟨_, _, hi s, hi s', h, rfl⟩

/-- RESET sets the phase Ready, CONSUME Accumulating, and the other operations keep it (R18). -/
theorem exec_phase (i : Instr) (s t : State) (h : exec i s = .next t) :
    (i = .reset → t.phase = .ready) ∧ (∀ b, i = .consume b → t.phase = .accumulating) ∧
    (i ≠ .reset → (∀ b, i ≠ .consume b) → t.phase = s.phase) := by
  refine ⟨?_, ?_, fun hreset hconsume => ?_⟩
  · rintro rfl; cases h; rfl
  · rintro b rfl; cases h; rfl
  · rw [exec_next_of_not_writer i s t h hreset hconsume]; rfl

theorem State.phaseOk_iff (s : State) :
    s.phaseOk = true ↔ (s.phase = .ready → s.regs = (sentinelCp, sentinelLp0, sentinelLp1)) :=
  decide_eq_true_iff

/-- Every operation keeps "Ready implies the sentinel" (R18). -/
theorem exec_keeps_phaseOk (i : Instr) (s t : State) (hs : s.phaseOk = true) (h : exec i s = .next t) :
    t.phaseOk = true := by
  rw [State.phaseOk_iff] at hs ⊢
  rcases exec_kinds i with ⟨op, hi⟩ | ⟨-, hi⟩ | ⟨b, -, hi⟩ | ⟨-, hi⟩ | ⟨r, -, -, -, hi⟩ <;> rw [hi] at h <;> cases h
  · simp
  · simp
  · simpa using hs
  · simpa using hs

end Operations

/-! ## Clock edges and runs -/

section Runs

/-- One clock edge reads nothing of the state but the registers. -/
theorem clock_regs_congr (i : Input) (s s' : State) (h : s.regs = s'.regs) :
    (∃ t t', clock i s = .next t ∧ clock i s' = .next t' ∧ t.regs = t'.regs ∧ t.result = t'.result) ∨
    ∃ r, clock i s = .refused r ∧ clock i s' = .refused r := by
  obtain ⟨rst, w⟩ := i
  cases rst with
  | true => exact .inl ⟨_, _, clock_rst w s, clock_rst w s', rfl, rfl⟩
  | false => exact exec_regs_congr (decode w) s s' h

/-- A run's results and its final registers depend on the registers it begins with and on nothing else of the state. -/
theorem run_regs_congr (is : List Input) (s s' : State) (h : s.regs = s'.regs) :
    resultsOf (run is s) = resultsOf (run is s') ∧ regsOf (run is s) = regsOf (run is s') := by
  induction is generalizing s s' with
  | nil => exact ⟨rfl, congrArg some h⟩
  | cons i is ih =>
    obtain ⟨t, t', ht, ht', hregs, hresult⟩ | ⟨r, hr, hr'⟩ := clock_regs_congr i s s' h
    · obtain ⟨hrs, hrg⟩ := results_cons_next i is s t ht
      obtain ⟨hrs', hrg'⟩ := results_cons_next i is s' t' ht'
      obtain ⟨ihrs, ihrg⟩ := ih t t' hregs
      rw [hrs, hrs', hrg, hrg', ihrs, hresult]
      exact ⟨rfl, ihrg⟩
    · rw [run_cons_refused i is s r hr, run_cons_refused i is s' r hr']
      exact ⟨rfl, rfl⟩

/-- A run that completes takes its first step and completes from there. -/
theorem run_cons_eq_next (i : Input) (is : List Input) (s u : State) (rs : List Result)
    (h : run (i :: is) s = .next (u, rs)) :
    ∃ t rs', clock i s = .next t ∧ run is t = .next (u, rs') ∧ rs = t.result :: rs' := by
  cases hc : clock i s with
  | fault f => cases f
  | refused r => rw [run_cons_refused i is s r hc] at h; cases h
  | next t =>
    rw [run_cons_next i is s t hc] at h
    cases hr : run is t with
    | fault f => cases f
    | refused r => rw [hr] at h; cases h
    | next p =>
      rw [hr] at h
      cases h
      exact ⟨t, p.2, rfl, hr, rfl⟩

/-- What every clock edge keeps, a run keeps. -/
theorem run_keeps (P : State → Prop) (hclock : ∀ i s t, P s → clock i s = .next t → P t) (is : List Input) (s t : State)
    (rs : List Result) (hs : P s) (h : run is s = .next (t, rs)) : P t := by
  induction is generalizing s rs with
  | nil => cases h; exact hs
  | cons i is ih =>
    obtain ⟨s', rs', hc, hr, -⟩ := run_cons_eq_next i is s t rs h
    exact ih s' rs' (hclock i s s' hs hc) hr

/-- Every clock edge keeps "Ready implies the sentinel" (R18). -/
theorem clock_keeps_phaseOk (i : Input) (s t : State) (hs : s.phaseOk = true) (h : clock i s = .next t) :
    t.phaseOk = true := by
  obtain ⟨rst, w⟩ := i
  cases rst with
  | true => cases h; simp [State.phaseOk_iff]
  | false => exact exec_keeps_phaseOk (decode w) s t hs h

/-- In a run that begins with a hardware reset, Ready implies the sentinel, whatever state it begins in (R18). -/
theorem run_phaseOk_of_beginsWithReset (is : List Input) (s t : State) (rs : List Result)
    (hreset : beginsWithReset is = true) (h : run is s = .next (t, rs)) : t.phaseOk = true := by
  cases is with
  | nil => cases hreset
  | cons i is =>
    obtain ⟨rst, w⟩ := i
    cases hreset
    obtain ⟨s', rs', hc, hr, -⟩ := run_cons_eq_next _ is s t rs h
    cases hc
    exact run_keeps _ clock_keeps_phaseOk is s.hardwareReset t rs' (by simp [State.phaseOk_iff]) hr

end Runs

/-! ## Streams of bytes -/

section Streams

@[simp] theorem xorAll_nil : xorAll [] = 0x00#8 := rfl
@[simp] theorem xorAll_cons (b : Byte) (bs : List Byte) : xorAll (b :: bs) = b ^^^ xorAll bs := rfl

/-- The state after one CONSUME per byte, in order. -/
def State.consumeBytes (s : State) (bs : List Byte) : State := bs.foldl State.consumeByte s

@[simp] theorem State.consumeBytes_nil (s : State) : s.consumeBytes [] = s := rfl
@[simp] theorem State.consumeBytes_cons (s : State) (b : Byte) (bs : List Byte) :
    s.consumeBytes (b :: bs) = (s.consumeByte b).consumeBytes bs := by
  simp only [State.consumeBytes, List.foldl_cons]

/-- `cp` takes the `COL` entry of every byte (R11). -/
theorem State.consumeBytes_cp (s : State) (bs : List Byte) :
    (s.consumeBytes bs).cp = s.cp ^^^ xorAll (bs.map colRom) := by
  induction bs generalizing s with
  | nil => simp
  | cons b bs ih => simp [ih, BitVec.xor_assoc]

/-- `lp0` takes the complement of every byte of odd parity (R12). -/
theorem State.consumeBytes_lp0 (s : State) (bs : List Byte) :
    (s.consumeBytes bs).lp0 = s.lp0 ^^^ xorAll ((oddBytes bs).map not8) := by
  induction bs generalizing s with
  | nil => simp [oddBytes]
  | cons b bs ih => cases hp : parRom b <;> simp_all [oddBytes, BitVec.xor_assoc]

/-- `lp1` takes every byte of odd parity (R12). -/
theorem State.consumeBytes_lp1 (s : State) (bs : List Byte) :
    (s.consumeBytes bs).lp1 = s.lp1 ^^^ xorAll (oddBytes bs) := by
  induction bs generalizing s with
  | nil => simp [oddBytes]
  | cons b bs ih => cases hp : parRom b <;> simp_all [oddBytes, BitVec.xor_assoc]

/-- The canonical word of an operation decodes to it (R52, R59). -/
theorem decode_encode (i : Instr) : decode (encode i) = i := by
  have hop : opField (encode i) = i.op := opField_append i.op i.data
  have hdata : dataField (encode i) = i.data := dataField_append i.op i.data
  rw [decode, hop, hdata]
  cases i <;> rfl

/-- The step that presents an operation by its canonical word executes it. -/
theorem clock_commandInput (i : Instr) (s : State) : clock (commandInput i) s = exec i s := by
  rw [commandInput, clock_cmd, decode_encode]

/-- The step of CONSTRUCT is a hardware reset (R57). -/
theorem clock_constructInput (s : State) : clock constructInput s = .next s.hardwareReset := rfl

/-- The CONSUME steps of a stream complete, from every state, and each answers that a byte was accepted. -/
theorem run_consumeInputs (bs : List Byte) (s : State) :
    run (consumeInputs bs) s = .next (s.consumeBytes bs, bs.map fun _ => ⟨true, []⟩) := by
  induction bs generalizing s with
  | nil => rfl
  | cons b bs ih =>
    have hstep : clock (commandInput (.consume b)) s = .next (s.consumeByte b) := clock_commandInput _ s
    have hrest := ih (s.consumeByte b)
    unfold consumeInputs at hrest ⊢
    rw [List.map_cons, run_cons_next _ _ s _ hstep, hrest]
    rfl

/-- A stream after a hardware reset. -/
theorem run_constructInput_consumeInputs (bs : List Byte) (s : State) :
    run (constructInput :: consumeInputs bs) s =
      .next (s.hardwareReset.consumeBytes bs, Result.silent :: bs.map fun _ => ⟨true, []⟩) := by
  rw [run_cons_next _ _ s s.hardwareReset (clock_constructInput s), run_consumeInputs]
  rfl

end Streams

/-! ## The output mask -/

section Mask

/-- Bit by bit, `NOT8` is negation (R8). -/
theorem not8_getLsbD (b : Byte) (k : Nat) (h : k < 8) : (not8 b).getLsbD k = !b.getLsbD k := by
  have ones : ∀ k < 8, (0xFF#8).getLsbD k = true := by decide
  simp [not8, ones k h]

/-- The mask clears bit 7 (R90). -/
theorem and_outputMask_getLsbD_seven (b : Byte) : (b &&& outputMask).getLsbD 7 = false := by
  simp [outputMask]

/-- The mask keeps bits 6 to 0 (R90). -/
theorem and_outputMask_getLsbD_of_lt (b : Byte) (k : Nat) (h : k < 7) : (b &&& outputMask).getLsbD k = b.getLsbD k := by
  have ones : ∀ k < 7, outputMask.getLsbD k = true := by decide
  simp [ones k h]

/-- Bit by bit, CONSUME changes `lp0` by the complement of a byte of odd parity (R21, R80). -/
theorem State.consumeByte_lp0_getLsbD (s : State) (b : Byte) (k : Nat) (h : k < 8) :
    (s.consumeByte b).lp0.getLsbD k = if parRom b then s.lp0.getLsbD k ^^ !b.getLsbD k else s.lp0.getLsbD k := by
  rw [State.consumeByte_lp0]
  split
  · rw [BitVec.getLsbD_xor, not8_getLsbD b k h]
  · rfl

end Mask

/-! ## The obligations -/

/-- Settles O16 (R14), by the kinds of operations. -/
theorem registerWritersAndReaders : Obligations.RegisterWritersAndReaders := by
  refine ⟨fun w s => ⟨_, clock_rst w s, rfl⟩, fun s => ⟨_, exec_reset s, rfl⟩, ?_, ?_, exec_register_congr⟩
  · intro i s t h hreset hconsume
    rw [exec_next_of_not_writer i s t h hreset hconsume, State.answer_regs]
  · intro b s t hpar h
    rw [exec_consume] at h
    cases h
    exact ⟨by simp [hpar], by simp [hpar]⟩

/-- Settles O20 (R18): no run reads the phase because it reads the registers only, and "Ready implies the sentinel" is kept by
every clock edge. -/
theorem phaseIsAGhost : Obligations.PhaseIsAGhost := by
  refine ⟨exec_phase, ?_, fun is s p => run_regs_congr is { s with phase := p } s rfl, ?_,
    ⟨_, exec_consume _ _, by decide, rfl⟩, fun s => ⟨s, .count 0, rfl, rfl⟩⟩
  · intro w s t h
    cases h
    rfl
  · intro is s t rs hreset h
    exact (State.phaseOk_iff t).mp (run_phaseOk_of_beginsWithReset is s t rs hreset h)

/-- Settles O31 (R11, R12), by induction on the stream, register by register. -/
theorem registersAreRunningXors : Obligations.RegistersAreRunningXors := fun bs s =>
  ⟨_, _, run_constructInput_consumeInputs bs s, State.consumeBytes_cp _ bs, State.consumeBytes_lp0 _ bs,
    State.consumeBytes_lp1 _ bs⟩

/-- Settles O21 (R21): bit by bit, and on the example 0x01. -/
theorem maskOnlyAtOutput : Obligations.MaskOnlyAtOutput := by
  refine ⟨fun s b => ⟨_, exec_consume b s, State.consumeByte_lp0_getLsbD s b⟩, fun s => ?_, ?_⟩
  · exact ⟨_, s.lp0 &&& outputMask, exec_finalize s, rfl, rfl, and_outputMask_getLsbD_seven s.lp0,
      and_outputMask_getLsbD_of_lt s.lp0⟩
  · exact ⟨_, _, exec_consume _ _, by decide, exec_finalize _, by decide, by decide⟩

/-- Settles O22 (R13): both resets (re)initialise, from every state. -/
theorem resetStateIsTheSentinel : Obligations.ResetStateIsTheSentinel :=
  ⟨rfl, fun w s => ⟨_, clock_rst w s, State.hardwareReset_regs s⟩, fun s => ⟨_, exec_reset s, State.initialise_regs s⟩⟩

end Sys2Proof.Machine

/-! PROOFS. The memory family (spec/20_memory.md): the contents of the two ROMs. -/

namespace Sys2Proof.Machine

/-! ## Parity as a count of bits -/

section Parity

/-- The exclusive-or of the values of a predicate along a list is the oddness of its count. -/
theorem foldr_xor_eq_countP_odd {α : Type} (p : α → Bool) (l : List α) :
    l.foldr (fun a acc => p a ^^ acc) false = decide (l.countP p % 2 = 1) := by
  induction l with
  | nil => rfl
  | cons a l ih =>
    rw [List.foldr_cons, ih, List.countP_cons]
    cases p a
    · simp
    · rcases Nat.mod_two_eq_zero_or_one (l.countP p) with h | h <;> simp [h, Nat.add_mod]

/-- The parity of a byte is 1 exactly when it has an odd number of 1 bits (R31). -/
theorem parity_iff_countP_odd (v : Byte) :
    parity v = true ↔ (List.range 8).countP (fun i => v.getLsbD i) % 2 = 1 := by
  have hfold : parity v = (List.range 8).foldr (fun i acc => v.getLsbD i ^^ acc) false := by
    simp [parity, List.range_succ]
  rw [hfold, foldr_xor_eq_countP_odd, decide_eq_true_iff]

/-- A predicate that holds of exactly one of `2k` and `2k + 1` holds of half the numbers below `2n`. -/
theorem countP_range_two_mul (p : Nat → Bool) (hflip : ∀ k, p (2 * k + 1) = !p (2 * k)) (n : Nat) :
    (List.range (2 * n)).countP p = n := by
  induction n with
  | zero => rfl
  | succ n ih =>
    rw [Nat.mul_succ, List.range_succ, List.range_succ, List.countP_append, List.countP_append, ih]
    cases h : p (2 * n) <;> simp [hflip, h]

/-- An odd address differs from the even one below it in bit 0, so its `PAR` entry is the other bit. -/
theorem parRom_ofNat_two_mul_add_one (k : Nat) :
    parRom (BitVec.ofNat 8 (2 * k + 1)) = !parRom (BitVec.ofNat 8 (2 * k)) := by
  have hbit : BitVec.ofNat 8 (2 * k + 1) = BitVec.ofNat 8 (2 * k) ^^^ 1#8 := by
    rw [← BitVec.ofNat_xor, Nat.xor_one_of_even (even_two_mul k)]
  have hone : parity 1#8 = true := by decide
  rw [hbit, parRom, parity_xor, hone, Bool.xor_true, parRom]

end Parity

/-! ## The shift-and-XOR reduction -/

section Reduction

/-- One step of the reduction adds to each bit the bit `n` places above it (R32). -/
theorem getLsbD_xor_ushiftRight_self (x : Byte) (n k : Nat) :
    (x ^^^ (x >>> n)).getLsbD k = (x.getLsbD k ^^ x.getLsbD (n + k)) := by
  rw [BitVec.getLsbD_xor, BitVec.getLsbD_ushiftRight]

/-- The final `AND 1` leaves bit 0 alone. -/
theorem and_one_eq_ite (x : Byte) : x &&& 1#8 = if x.getLsbD 0 then 1#8 else 0#8 := by
  rw [BitVec.and_one_eq_setWidth_ofBool_getLsbD]
  cases x.getLsbD 0 <;> rfl

end Reduction

/-! ## The bits of a column entry -/

section Columns

/-- A byte is the weighted sum of its bits (R7). -/
theorem toNat_eq_sum_bits (x : Byte) :
    x.toNat = (x.getLsbD 0).toNat + (x.getLsbD 1).toNat * 2 + (x.getLsbD 2).toNat * 4 + (x.getLsbD 3).toNat * 8 +
      (x.getLsbD 4).toNat * 16 + (x.getLsbD 5).toNat * 32 + (x.getLsbD 6).toNat * 64 + (x.getLsbD 7).toNat * 128 := by
  have hlt : x.toNat < 256 := x.isLt
  simp only [BitVec.getLsbD, Nat.toNat_testBit]
  omega

end Columns

/-! ## The obligations -/

/-- Settles O6 (R31): the parity is the oddness of a count, and pairing each even address with the odd one above it halves the
ROM. -/
theorem parityRomIsXorOfBits : Obligations.ParityRomIsXorOfBits :=
  ⟨fun _ => rfl, parity_iff_countP_odd, by decide, by decide, by decide, by decide, by decide,
    countP_range_two_mul _ parRom_ofNat_two_mul_add_one 128⟩

/-- Settles O7 (R32), bit by bit: each step exclusive-ors two blocks of bits that the step before has gathered. -/
theorem shiftAndXorReductionIsParity : Obligations.ShiftAndXorReductionIsParity := by
  intro v v₁ v₂ v₃ h₁ h₂ h₃
  have hbit₁ (k : Nat) : v₁.getLsbD k = (v.getLsbD k ^^ v.getLsbD (1 + k)) := by
    rw [h₁, getLsbD_xor_ushiftRight_self]
  have hbit₂ (k : Nat) : v₂.getLsbD k = (v₁.getLsbD k ^^ v₁.getLsbD (2 + k)) := by
    rw [h₂, getLsbD_xor_ushiftRight_self]
  have hbit₃ : v₃.getLsbD 0 = parRom v := by
    rw [h₃, getLsbD_xor_ushiftRight_self]
    simp only [hbit₂, hbit₁, Bool.xor_assoc, parRom, parity]
  refine ⟨hbit₁ 0, ?_, hbit₃, ?_⟩
  · simp only [hbit₂, hbit₁, Bool.xor_assoc]
  · rw [and_one_eq_ite, hbit₃]

/-- Settles O8 (R34): each bit is its selector's parity, the value is the weighted sum of the bits, and a selector's parity is
the exclusive-or of the bits it keeps. -/
theorem columnRomPacksSelectorParities : Obligations.ColumnRomPacksSelectorParities := by
  intro v
  have h0 : (colRom v).getLsbD 0 = parity (v &&& 0x55#8) := colRom_getLsbD v 0 (by decide)
  have h1 : (colRom v).getLsbD 1 = parity (v &&& 0x33#8) := colRom_getLsbD v 1 (by decide)
  have h2 : (colRom v).getLsbD 2 = parity (v &&& 0x0F#8) := colRom_getLsbD v 2 (by decide)
  have h3 : (colRom v).getLsbD 3 = parity (v &&& 0x00#8) := colRom_getLsbD v 3 (by decide)
  have h4 : (colRom v).getLsbD 4 = parity (v &&& 0xAA#8) := colRom_getLsbD v 4 (by decide)
  have h5 : (colRom v).getLsbD 5 = parity (v &&& 0xCC#8) := colRom_getLsbD v 5 (by decide)
  have h6 : (colRom v).getLsbD 6 = parity (v &&& 0xF0#8) := colRom_getLsbD v 6 (by decide)
  have h7 : (colRom v).getLsbD 7 = false := colRom_getLsbD v 7 (by decide)
  refine ⟨h0, h1, h2, h3, h4, h5, h6, h7, ?_, ?_⟩
  · rw [toNat_eq_sum_bits, h0, h1, h2, h3, h4, h5, h6, h7]
    rfl
  · rw [h0, h1, h2, h3, h4, h5, h6]
    simp [parity]

end Sys2Proof.Machine

/-! PROOFS. The encoding family (spec/30_encoding.md): the fields of a command word, the decoder, legal and reserved words, the
results and the ports that carry them. -/

namespace Sys2Proof.Machine

/-! ## The fields of a command word -/

section Fields

/-- `op = cmd[10:8]` as a number (R51). -/
theorem opField_toNat (w : Cmd) : (opField w).toNat = w.toNat / 256 := by
  have hlt : w.toNat < 2048 := w.isLt
  rw [opField, BitVec.extractLsb'_toNat, Nat.shiftRight_eq_div_pow]
  omega

/-- `data = cmd[7:0]` as a number (R51). -/
theorem dataField_eq_ofNat (w : Cmd) : dataField w = BitVec.ofNat 8 (w.toNat % 256) := by
  apply BitVec.eq_of_toNat_eq
  simp [dataField]

/-- `op` above `data`, as a number (R51). -/
theorem append_toNat (op : BitVec 3) (d : Byte) : (op ++ d).toNat = 256 * op.toNat + d.toNat := by
  rw [BitVec.toNat_append, ← Nat.shiftLeft_add_eq_or_of_lt d.isLt, Nat.shiftLeft_eq, Nat.mul_comm]

/-- The canonical word of an operation, as a number (R52). -/
theorem encode_eq_ofNat (i : Instr) : encode i = BitVec.ofNat 11 (256 * i.op.toNat + i.data.toNat) := by
  rw [← append_toNat, ← encode, BitVec.ofNat_toNat, BitVec.setWidth_eq]

/-- The eight values of `op`, the rows of R51's table. -/
theorem opValue_cases : ∀ op : BitVec 3,
    op = 0#3 ∨ op = 1#3 ∨ op = 2#3 ∨ op = 3#3 ∨ op = 4#3 ∨ op = 5#3 ∨ op = 6#3 ∨ op = 7#3 := by decide

/-- A word decodes to an operation of the row that its `op` names (R51, R59). -/
theorem decode_op (w : Cmd) : (decode w).op = opField w := by
  unfold decode
  rcases opValue_cases (opField w) with h | h | h | h | h | h | h | h <;> rw [h] <;> rfl

theorem decode_op_toNat (w : Cmd) : (decode w).op.toNat = w.toNat / 256 := by
  rw [decode_op, opField_toNat]

end Fields

/-! ## Legal and reserved operations -/

section Legality

theorem exec_nop (s : State) : exec .nop s = .next (s.answer Result.silent) := rfl
theorem exec_blockSize (s : State) : exec .blockSize s = .next (s.answer ⟨false, [blockSizeByte]⟩) := rfl
theorem exec_codeSize (s : State) : exec .codeSize s = .next (s.answer ⟨false, [codeSizeByte]⟩) := rfl

/-- The reserved rows are those with `op` 6 and 7 (R53). -/
theorem Instr.wf_iff_op_lt (i : Instr) : i.wf = true ↔ i.op.toNat < 6 := by
  cases i <;> simp [Instr.wf, Instr.op]

/-- The legal words are those below 0x600 (R53). -/
theorem decode_wf_iff (w : Cmd) : (decode w).wf = true ↔ w.toNat < 0x600 := by
  rw [Instr.wf_iff_op_lt, decode_op_toNat]
  omega

/-- A legal operation has a next state, from every state (R102). -/
theorem exec_next_of_wf (i : Instr) (s : State) (h : i.wf = true) : ∃ t, exec i s = .next t := by
  cases i with
  | reserved6 => cases h
  | reserved7 => cases h
  | _ => exact ⟨_, rfl⟩

/-- A reserved operation is refused with its `op`, in every state (R53). -/
theorem exec_refused_of_not_wf (i : Instr) (s : State) (h : i.wf = false) :
    exec i s = .refused (.reservedCommand i.op) := by
  cases i with
  | reserved6 => rfl
  | reserved7 => rfl
  | _ => cases h

end Legality

/-! ## Results and ports -/

section Results

/-- An operation answers at most three bytes (R54). -/
theorem exec_result_length_le (i : Instr) (s t : State) (h : exec i s = .next t) : t.result.bytes.length ≤ 3 := by
  rcases exec_cases i s with ⟨-, he⟩ | ⟨b, -, he⟩ | ⟨-, he⟩ | ⟨-, he⟩ | ⟨-, he⟩ | ⟨-, he⟩ | ⟨-, he⟩ | ⟨-, he⟩ <;>
    rw [he] at h <;> cases h <;> simp [Result.silent, State.code]

/-- A clock edge answers at most three bytes (R54). -/
theorem clock_result_length_le (i : Input) (s t : State) (h : clock i s = .next t) : t.result.bytes.length ≤ 3 := by
  obtain ⟨rst, w⟩ := i
  cases rst with
  | true => cases h; simp [Result.silent]
  | false => exact exec_result_length_le (decode w) s t h

/-- The `accepted` bits of a stream of CONSUME steps count its bytes (R58). -/
theorem acceptedCount_map_consumed (bs : List Byte) : acceptedCount (bs.map fun _ => ⟨true, []⟩) = bs.length := by
  simp [acceptedCount]

/-- The ports during a step that completes carry its result (R55). -/
theorem outputs_of_clock_next (i : Input) (s t : State) (h : clock i s = .next t) : outputs i s = t.result.ports := by
  rw [outputs, h]

end Results

/-! ## The obligations -/

/-- Settles O17 (R54), operation by operation; a stream by the run of its CONSUME steps. -/
theorem resultOfEachOperation : Obligations.ResultOfEachOperation :=
  ⟨fun s => ⟨_, exec_nop s, rfl⟩, fun s => ⟨_, exec_reset s, rfl⟩, fun b s => ⟨_, exec_consume b s, rfl⟩,
    fun s => ⟨_, exec_finalize s, rfl⟩, fun s => ⟨_, exec_blockSize s, rfl⟩, fun s => ⟨_, exec_codeSize s, rfl⟩,
    fun w s => ⟨_, clock_rst w s, rfl⟩,
    fun bs s => ⟨_, _, run_consumeInputs bs s, acceptedCount_map_consumed bs⟩, clock_result_length_le⟩

/-- Settles O18 (R55): the ports carry the result, and the result of a legal word is that of the operation its `op` names. -/
theorem portsCarryTheResult : Obligations.PortsCarryTheResult := by
  refine ⟨fun a x y z => ⟨rfl, rfl, rfl, rfl⟩, outputs_of_clock_next, fun s w hw => ?_,
    fun s w => outputs_of_clock_next _ s _ (clock_rst w s)⟩
  have hwf : (decode w).wf = true := (decode_wf_iff w).mpr hw
  have hports (t : State) (he : exec (decode w) s = .next t) : outputs ⟨false, w⟩ s = t.result.ports :=
    outputs_of_clock_next _ s t he
  rw [← decode_op_toNat w]
  generalize decode w = i at hwf hports ⊢
  cases i with
  | reserved6 => cases hwf
  | reserved7 => cases hwf
  | _ => exact hports _ rfl

/-- Settles O1 (R59), by the eight values of `op`. -/
theorem decoderFollowsOpField : Obligations.DecoderFollowsOpField := by
  intro w
  rw [← opField_toNat, ← dataField_eq_ofNat]
  unfold decode
  rcases opValue_cases (opField w) with h | h | h | h | h | h | h | h <;> rw [h] <;> rfl

/-- Settles O2 (R52): the word of CONSUME b is its encoding; where `op` is not 1 the decoder does not reach `data`. -/
theorem operandIsDataAsItStands : Obligations.OperandIsDataAsItStands := by
  refine ⟨fun b => ?_, fun w w' hop hne => ?_, rfl, rfl, rfl, rfl, rfl⟩
  · have hword : encode (.consume b) = BitVec.ofNat 11 (0x100 + b.toNat) := encode_eq_ofNat (.consume b)
    refine ⟨?_, hword, rfl, fun s => ⟨_, exec_consume b s, State.consumeByte_cp s b, State.consumeByte_lp1 s b⟩⟩
    rw [← hword, decode_encode]
  · rw [decoderFollowsOpField w, decoderFollowsOpField w', ← hop, if_neg hne, if_neg hne]

/-- Settles O5 (R53): a word from 0x600 names a reserved row, a word below it a legal one. -/
theorem reservedWordsAreRefused : Obligations.ReservedWordsAreRefused := by
  refine ⟨fun s => ⟨rfl, rfl⟩, fun w s hw => ?_, fun w s hw => ?_⟩
  · have hwf : (decode w).wf = false := by
      rw [← Bool.not_eq_true, decode_wf_iff]
      omega
    refine ⟨hwf, ?_⟩
    rw [exec_refused_of_not_wf _ s hwf, ← decode_op_toNat, BitVec.ofNat_toNat, BitVec.setWidth_eq]
  · have hwf : (decode w).wf = true := (decode_wf_iff w).mpr hw
    exact ⟨hwf, exec_next_of_wf _ s hwf⟩

/-- Settles O24 (R60): a step with `rst` is the hardware reset, any other the decoded operation. -/
theorem clockEdgeTakesResetOrCommand : Obligations.ClockEdgeTakesResetOrCommand := fun s w =>
  ⟨clock_rst w s, fun _ => clock_cmd w s, fun hwf => ⟨_, exec_refused_of_not_wf (decode w) s hwf⟩⟩

end Sys2Proof.Machine

/-! PROOFS. The control family (spec/40_control_and_constants.md): NOP, RESET, BLOCKSIZE and CODESIZE, and what a step of each
means for the run that follows it. -/

namespace Sys2Proof.Machine

/-! ## The words of the operations without operand -/

section Words

/-- A word decodes to the operation whose `op` it has, when that operation has no operand: `data` is ignored (R52, R59). -/
theorem decode_eq_of_op (i : Instr) (w : Cmd) (hdata : ∀ b, i ≠ .consume b) (hop : w.toNat / 256 = i.op.toNat) :
    decode w = i := by
  rw [decoderFollowsOpField w, hop]
  cases i with
  | consume b => exact absurd rfl (hdata b)
  | _ => rfl

end Words

/-! ## The run after a step -/

section Following

/-- A step that leaves the registers as they were adds its result and changes no later result and no final register. -/
theorem run_cons_of_regs_kept (i : Input) (is : List Input) (s t : State) (h : clock i s = .next t)
    (hregs : t.regs = s.regs) :
    resultsOf (run (i :: is) s) = (resultsOf (run is s)).map (fun rs => t.result :: rs) ∧
    regsOf (run (i :: is) s) = regsOf (run is s) := by
  obtain ⟨hresults, hfinal⟩ := results_cons_next i is s t h
  obtain ⟨hlater, hlast⟩ := run_regs_congr is t s hregs
  exact ⟨by rw [hresults, hlater], by rw [hfinal, hlast]⟩

/-- Two steps that answer the same result with the same registers are followed by the same results and end in the same
registers. -/
theorem run_cons_congr_of_next (i i' : Input) (is : List Input) (s s' t t' : State) (h : clock i s = .next t)
    (h' : clock i' s' = .next t') (hregs : t.regs = t'.regs) (hresult : t.result = t'.result) :
    resultsOf (run (i :: is) s) = resultsOf (run (i' :: is) s') ∧
    regsOf (run (i :: is) s) = regsOf (run (i' :: is) s') := by
  obtain ⟨hresults, hfinal⟩ := results_cons_next i is s t h
  obtain ⟨hresults', hfinal'⟩ := results_cons_next i' is s' t' h'
  obtain ⟨hlater, hlast⟩ := run_regs_congr is t t' hregs
  exact ⟨by rw [hresults, hresults', hlater, hresult], by rw [hfinal, hfinal', hlast]⟩

end Following

/-! ## RESET -/

section Reset

/-- RESET and the hardware reset are one clock edge (R71, R120). -/
theorem clock_rst_eq_exec_reset (w : Cmd) (s : State) : clock ⟨true, w⟩ s = exec .reset s := rfl

/-- The step that presents RESET, whatever the state. -/
theorem clock_commandInput_reset (s : State) : clock (commandInput .reset) s = .next (s.initialise.answer Result.silent) :=
  (clock_commandInput .reset s).trans (exec_reset s)

end Reset

/-! ## The obligations -/

/-- Settles O10 (R70): NOP answers (0, `[]`) and keeps the registers, which are all that a later step reads. -/
theorem nopHoldsTheState : Obligations.NopHoldsTheState := by
  have hword (w : Cmd) (hw : w.toNat / 256 = 0) : decode w = .nop := decode_eq_of_op .nop w (by simp) hw
  refine ⟨exec_nop, hword, rfl, fun s w is hw => ?_, fun s hs => ⟨_, exec_nop s, ?_⟩⟩
  · have hclock : clock ⟨false, w⟩ s = .next (s.answer Result.silent) := by
      rw [clock_cmd, hword w hw, exec_nop]
    exact run_cons_of_regs_kept _ is s _ hclock (State.answer_regs s _)
  · rw [State.answer_regs, hs]

/-- Settles O11 (R71): RESET writes constants over all that a later step reads, so neither it nor the steps after it depend on
the state before. -/
theorem resetWritesTheSentinel : Obligations.ResetWritesTheSentinel := by
  refine ⟨exec_reset, fun w hw => decode_eq_of_op .reset w (by simp) hw, rfl, fun s t h => ?_, rfl,
    clock_rst_eq_exec_reset, fun s s' is => ?_⟩
  · rw [exec_reset] at h
    cases h
    rfl
  · exact (run_cons_congr_of_next _ _ is s s' _ _ (clock_commandInput_reset s) (clock_commandInput_reset s') rfl rfl).1

/-- Settles O12 (R72); a stream of any length completes by the run of its CONSUME steps. -/
theorem blockSizeAnswersOne : Obligations.BlockSizeAnswersOne :=
  ⟨exec_blockSize, fun w hw => decode_eq_of_op .blockSize w (by simp) hw, rfl,
    fun bs s => ⟨_, _, run_consumeInputs bs s⟩⟩

/-- Settles O13 (R73); FINALIZE answers the three bytes of the code. -/
theorem codeSizeAnswersThree : Obligations.CodeSizeAnswersThree :=
  ⟨exec_codeSize, fun w hw => decode_eq_of_op .codeSize w (by simp) hw, rfl,
    fun s => ⟨_, _, exec_codeSize s, exec_finalize s, rfl⟩⟩

end Sys2Proof.Machine

/-! PROOFS. The consume family (spec/41_consume.md): CONSUME on one byte and the call `consume(bytes)`. -/

namespace Sys2Proof.Machine

/-! ## Bytes that change no register -/

section Identity

/-- A mask and its complement part the bits of a byte between them. -/
theorem and_xor_and_not (v mask : Byte) : (v &&& mask) ^^^ (v &&& ~~~mask) = v := by
  ext k hk
  cases hm : mask[k] <;> simp [hm]

/-- `SEL[0]` and `SEL[4]` are complements (R33), so the bits 0 and 4 of `COL[b]` add up to `PAR[b]`. -/
theorem colRom_bit_zero_xor_bit_four (b : Byte) : ((colRom b).getLsbD 0 ^^ (colRom b).getLsbD 4) = parRom b := by
  have hzero : (colRom b).getLsbD 0 = parRom (b &&& 0x55#8) := colRom_getLsbD b 0 (by decide)
  have hfour : (colRom b).getLsbD 4 = parRom (b &&& 0xAA#8) := colRom_getLsbD b 4 (by decide)
  have hsplit : (b &&& 0x55#8) ^^^ (b &&& 0xAA#8) = b := and_xor_and_not b 0x55#8
  rw [hzero, hfour, parRom, parRom, ← parity_xor, hsplit, parRom]

/-- A byte whose column mask is 0x00 has even parity. -/
theorem parRom_eq_false_of_colRom_eq_zero (b : Byte) (h : colRom b = 0x00#8) : parRom b = false := by
  rw [← colRom_bit_zero_xor_bit_four, h]
  rfl

/-- Where `COL[b]` is 0x00, CONSUME b changes no register (R80). -/
theorem State.consumeByte_regs_of_colRom_eq_zero (s : State) (b : Byte) (h : colRom b = 0x00#8) :
    (s.consumeByte b).regs = s.regs := by
  have hpar : parRom b = false := parRom_eq_false_of_colRom_eq_zero b h
  simp [State.regs, h, hpar]

end Identity

/-! ## The call -/

section ConsumeCall

/-- The call `consume(bytes)` completes from every state, in the state after one CONSUME per byte, with the count of its bytes
(R58, R81). -/
theorem call_consume (bs : List Byte) (s : State) : call (.consume bs) s = .next (s.consumeBytes bs, .count bs.length) := by
  rw [call, Call.inputs, run_consumeInputs, ← acceptedCount_map_consumed bs]
  rfl

end ConsumeCall

/-! ## The obligations -/

/-- Settles O45 (R81): the run of the CONSUME steps completes, and its `accepted` bits count the bytes. -/
theorem consumeCallReportsItsLength : Obligations.ConsumeCallReportsItsLength :=
  ⟨fun _ => rfl, fun bs s => ⟨_, call_consume bs s⟩, call_consume [],
    fun b bs s => ⟨_, _, exec_consume b s, call_consume bs _, call_consume (b :: bs) s⟩⟩

/-- Settles O14 (R80), field by field; a byte with `COL[b]` = 0x00 is also one of even parity, so it changes no register. -/
theorem consumeAccumulatesTheByte : Obligations.ConsumeAccumulatesTheByte := by
  refine ⟨fun s b => ?_, fun w hw => ?_, fun b => encode_eq_ofNat (.consume b),
    fun s b h => ⟨_, exec_consume b s, State.consumeByte_regs_of_colRom_eq_zero s b h⟩,
    ⟨_, exec_consume _ _, by decide⟩, ⟨_, exec_consume _ _, by decide⟩⟩
  · rw [exec_consume]
    exact congrArg _ (State.ext_fields _ _ (State.consumeByte_cp s b) (State.consumeByte_lp0 s b)
      (State.consumeByte_lp1 s b) rfl (State.consumeByte_inputs s b) rfl)
  · rw [decoderFollowsOpField w, hw]
    rfl

end Sys2Proof.Machine

/-! PROOFS. The finalize family (spec/42_finalize.md): the code FINALIZE answers, and the run around a FINALIZE step. -/

namespace Sys2Proof.Machine

/-! ## FINALIZE as a step -/

section Finalize

/-- A word with `op` = 3 is FINALIZE (R51, R52). -/
theorem decode_eq_finalize (w : Cmd) (hop : w.toNat / 256 = 3) : decode w = .finalize :=
  decode_eq_of_op .finalize w (by simp) hop

/-- The step that presents FINALIZE answers the code and changes nothing else (R90). -/
theorem clock_commandInput_finalize (s : State) :
    clock (commandInput .finalize) s = .next (s.answer ⟨false, s.code⟩) :=
  (clock_commandInput .finalize s).trans (exec_finalize s)

/-- FINALIZE after a run that completes answers the code of the state the run reached. -/
theorem run_append_finalize (is : List Input) (s t : State) (rs : List Result) (h : run is s = .next (t, rs)) :
    run (is ++ [commandInput .finalize]) s = .next (t.answer ⟨false, t.code⟩, rs ++ [⟨false, t.code⟩]) := by
  rw [run_append is _ s t rs h, run_cons_next _ _ t _ (clock_commandInput_finalize t), run_nil]
  rfl

/-- The code of registers at the sentinel (R94). -/
theorem State.code_of_sentinel (s : State) (h : s.regs = (sentinelCp, sentinelLp0, sentinelLp1)) :
    s.code = [0x77#8, 0x7F#8, 0x7F#8] :=
  (State.code_congr s State.reset h).trans (by decide)

/-- FINALIZE after one step that leaves the sentinel: the two results are the step's and the sentinel code. -/
theorem resultsOf_run_finalize_of_sentinel (i : Input) (s t : State) (h : clock i s = .next t)
    (ht : t.regs = (sentinelCp, sentinelLp0, sentinelLp1)) :
    resultsOf (run [i, commandInput .finalize] s) = some [t.result, ⟨false, [0x77#8, 0x7F#8, 0x7F#8]⟩] := by
  rw [(results_cons_next i _ s t h).1, (results_cons_next _ _ t _ (clock_commandInput_finalize t)).1, run_nil,
    State.code_of_sentinel t ht]
  rfl

end Finalize

/-! ## Steps that write no register -/

section NoWriter

/-- The steps that write no register (R14) present one of four operations, without `rst`. -/
theorem Input.writesNoRegister_iff (i : Input) :
    i.writesNoRegister = true ↔ i.rst = false ∧
      (decode i.cmd = .nop ∨ decode i.cmd = .finalize ∨ decode i.cmd = .blockSize ∨ decode i.cmd = .codeSize) := by
  simp [Input.writesNoRegister, or_assoc]

/-- A step that writes no register completes and changes the result only. -/
theorem clock_of_writesNoRegister (i : Input) (s : State) (h : i.writesNoRegister = true) :
    ∃ r, clock i s = .next (s.answer r) := by
  obtain ⟨hrst, hop⟩ := (Input.writesNoRegister_iff i).mp h
  have hclock : clock i s = exec (decode i.cmd) s := by simp [clock, hrst]
  rw [hclock]
  obtain hop | hop | hop | hop := hop <;> rw [hop]
  · exact ⟨_, exec_nop s⟩
  · exact ⟨_, exec_finalize s⟩
  · exact ⟨_, exec_blockSize s⟩
  · exact ⟨_, exec_codeSize s⟩

/-- Any number of steps that write no register complete and change the result only. -/
theorem run_of_writesNoRegister (is : List Input) (s : State) (h : ∀ i ∈ is, i.writesNoRegister = true) :
    ∃ r rs, run is s = .next (s.answer r, rs) := by
  induction is generalizing s with
  | nil => exact ⟨s.result, [], rfl⟩
  | cons i is ih =>
    obtain ⟨hi, his⟩ := List.forall_mem_cons.mp h
    obtain ⟨r, hclock⟩ := clock_of_writesNoRegister i s hi
    obtain ⟨r', rs, hrun⟩ := ih (s.answer r) his
    refine ⟨r', r :: rs, ?_⟩
    rw [run_cons_next i is s _ hclock, hrun]
    rfl

end NoWriter

/-! ## The call -/

section FinalizeCall

/-- The call `finalize(prefix)` is one FINALIZE step; the caller appends its bytes to the prefix (R91). -/
theorem call_finalize (buffer : List Byte) (s : State) :
    call (.finalize buffer) s = .next (s.answer ⟨false, s.code⟩, .buffer (buffer ++ s.code)) := by
  rw [call, Call.inputs, run_cons_next _ _ s _ (clock_commandInput_finalize s), run_nil]
  simp [Call.reply, resultBytes]

end FinalizeCall

/-! ## The obligations -/

/-- Settles O38 (R92): FINALIZE keeps the registers, which are all that a later step reads; the steps between two FINALIZE
change the result only, so the second answers the code of the same registers. -/
theorem finalizeDisturbsNothing : Obligations.FinalizeDisturbsNothing := by
  refine ⟨fun is s => run_cons_of_regs_kept _ is s _ (clock_commandInput_finalize s) (State.answer_regs s _),
    fun mid s hmid => ?_, fun bs s => ?_⟩
  · obtain ⟨r, rs, hmidrun⟩ := run_of_writesNoRegister mid (s.answer ⟨false, s.code⟩) hmid
    have hfirst : run (commandInput .finalize :: mid) s = .next (s.answer r, ⟨false, s.code⟩ :: rs) := by
      rw [run_cons_next _ mid s _ (clock_commandInput_finalize s), hmidrun]
      rfl
    exact ⟨_, _, run_append_finalize _ s _ _ hfirst, rfl, List.getLast?_concat, rfl⟩
  · have hrun := run_consumeInputs bs s
    exact ⟨_, _, _, _, hrun, run_append_finalize _ s _ _ hrun, List.getLast?_concat⟩

/-- Settles O15 (R90): the next state by the meaning of FINALIZE, the ports as what carries its result. -/
theorem finalizeEmitsTheCode : Obligations.FinalizeEmitsTheCode := by
  refine ⟨exec_finalize, decode_eq_finalize, rfl, fun s w hw => ?_, fun s hs => ⟨_, exec_finalize s, ?_, hs⟩⟩
  · have hclock : clock ⟨false, w⟩ s = .next (s.answer ⟨false, s.code⟩) := by
      rw [clock_cmd, decode_eq_finalize w hw, exec_finalize]
    exact outputs_of_clock_next _ s _ hclock
  · obtain ⟨hcp, hlp0, hlp1⟩ : s.cp = 0x70#8 ∧ s.lp0 = 0x81#8 ∧ s.lp1 = 0x7E#8 := by simpa [State.regs] using hs
    simp [State.code, outputMask, hcp, hlp0, hlp1]

/-- Settles O39 (R94): both resets leave the sentinel, whose code is the sentinel code. -/
theorem finalizeBeforeAnyConsume : Obligations.FinalizeBeforeAnyConsume :=
  ⟨⟨_, exec_finalize State.reset, congrArg (Result.mk false) (State.code_of_sentinel State.reset rfl)⟩,
    fun s => resultsOf_run_finalize_of_sentinel _ s _ (clock_constructInput s) rfl,
    fun s => resultsOf_run_finalize_of_sentinel _ s _ (clock_commandInput_reset s) rfl⟩

/-- Settles O46 (R91), by the call's one step. -/
theorem finalizeCallAppendsTheCode : Obligations.FinalizeCallAppendsTheCode := call_finalize

end Sys2Proof.Machine

/-! PROOFS. The exceptions family (spec/60_exceptions.md): the refusal of a reserved command word is the only outcome of a step
that is not a next state. -/

namespace Sys2Proof.Machine

/-! ## Legal inputs -/

section LegalInput

/-- The legal inputs as numbers: `rst`, or a word below 0x600 (R53, R104). -/
theorem Input.legal_iff (i : Input) : i.legal = true ↔ i.rst = true ∨ i.cmd.toNat < 0x600 := by
  simp [Input.legal, decode_wf_iff]

/-- What a clock edge can answer: a next state to a legal input, a refusal to any other, and never a fault (R102). -/
theorem clock_legal_cases (i : Input) (s : State) :
    (i.legal = true ∧ ∃ t, clock i s = .next t) ∨ (i.legal = false ∧ ∃ r, clock i s = .refused r) := by
  obtain ⟨rst, w⟩ := i
  cases rst with
  | true => exact .inl ⟨rfl, _, clock_rst w s⟩
  | false =>
    cases hwf : (decode w).wf with
    | true => exact .inl ⟨hwf, exec_next_of_wf (decode w) s hwf⟩
    | false => exact .inr ⟨hwf, _, exec_refused_of_not_wf (decode w) s hwf⟩

/-- A clock edge has a next state exactly for a legal input (R102). -/
theorem clock_next_iff_legal (i : Input) (s : State) : (∃ t, clock i s = .next t) ↔ i.legal = true := by
  obtain ⟨hlegal, t, ht⟩ | ⟨hlegal, r, hr⟩ := clock_legal_cases i s
  · simp [hlegal, ht]
  · simp [hlegal, hr]

/-- A clock edge is refused exactly for an input that is not legal (R102). -/
theorem clock_refused_iff_not_legal (i : Input) (s : State) : (∃ r, clock i s = .refused r) ↔ ¬ i.legal = true := by
  obtain ⟨hlegal, t, ht⟩ | ⟨hlegal, r, hr⟩ := clock_legal_cases i s
  · simp [hlegal, ht]
  · simp [hlegal, hr]

end LegalInput

/-! ## The obligations -/

/-- Settles O27 (R102): a step is refused for the inputs that are not legal and completes for the others, and the legal inputs
are those with `rst` or a word below 0x600. -/
theorem onlyReservedCommandsStop : Obligations.OnlyReservedCommandsStop := by
  refine ⟨fun i s => ?_, fun i s => ?_, exec_next_of_wf⟩
  · rw [clock_refused_iff_not_legal, Input.legal_iff, not_or, Bool.not_eq_true, not_lt]
  · rw [clock_next_iff_legal, Input.legal_iff]

end Sys2Proof.Machine

/-! PROOFS. The reset family (spec/70_reset_and_hazards.md): the hardware reset and RESET as one step that forgets the state it
was taken in. -/

namespace Sys2Proof.Machine

/-! ## Reset steps -/

section ResetSteps

/-- The reset steps are those with `rst` and those that present RESET (R71, R120). -/
theorem Input.resets_iff (i : Input) : i.resets = true ↔ i.rst = true ∨ decode i.cmd = .reset := by
  simp [Input.resets]

/-- A reset step of either kind completes from every state in the hardware reset of that state (R121). -/
theorem clock_of_resets (i : Input) (s : State) (h : i.resets = true) : clock i s = .next s.hardwareReset := by
  obtain ⟨rst, w⟩ := i
  cases rst with
  | true => exact clock_rst w s
  | false =>
    have hreset : decode w = .reset := by simpa [Input.resets_iff] using h
    rw [clock_cmd, hreset, exec_reset]
    rfl

/-- A hardware reset leaves of the state before it only what the host presents next (R120). -/
theorem State.hardwareReset_eq (s : State) : s.hardwareReset = { State.reset with inputs := s.inputs } := rfl

/-- Once more changes nothing (R125). -/
@[simp] theorem State.hardwareReset_hardwareReset (s : State) : s.hardwareReset.hardwareReset = s.hardwareReset := rfl

/-- After a reset, further reset steps in any number leave the state and answer (0, `[]`) each (R125). -/
theorem run_resets_of_hardwareReset (is : List Input) (s : State) (h : ∀ i ∈ is, i.resets = true) :
    run is s.hardwareReset = .next (s.hardwareReset, is.map fun _ => Result.silent) := by
  induction is with
  | nil => rfl
  | cons i is ih =>
    obtain ⟨hi, his⟩ := List.forall_mem_cons.mp h
    have hstep : clock i s.hardwareReset = .next s.hardwareReset := by
      rw [clock_of_resets i _ hi, State.hardwareReset_hardwareReset]
    rw [run_cons_next i is _ _ hstep, ih his]
    rfl

/-- Reset steps, in any number but none, do from every state what one of them does, and answer (0, `[]`) each (R125). -/
theorem run_resets (is : List Input) (s : State) (hne : is ≠ []) (h : ∀ i ∈ is, i.resets = true) :
    run is s = .next (s.hardwareReset, is.map fun _ => Result.silent) := by
  cases is with
  | nil => exact absurd rfl hne
  | cons i is =>
    obtain ⟨hi, his⟩ := List.forall_mem_cons.mp h
    rw [run_cons_next i is s _ (clock_of_resets i s hi), run_resets_of_hardwareReset is s his]
    rfl

end ResetSteps

/-! ## The obligations -/

/-- Settles O23 (R120): one step by the clock edge with `rst`, any number of them by induction, since the first brings the
state that the others leave. -/
theorem hardwareResetFromAnyState : Obligations.HardwareResetFromAnyState := by
  refine ⟨fun w s => ?_, fun w => clock_rst w State.reset, fun is s hne hrst => ?_⟩
  · rw [clock_rst, State.hardwareReset_eq]
  · exact run_resets is s hne fun i hi => (Input.resets_iff i).mpr (.inl (hrst i hi))

/-- Settles O40 (R125): the state after a reset step has the same registers and the same result whatever the state before it,
and the steps that follow read nothing but the registers. -/
theorem resetForgetsTheHistory : Obligations.ResetForgetsTheHistory := by
  refine ⟨fun r s hr => ⟨s.hardwareReset, clock_of_resets r s hr, State.hardwareReset_regs s, rfl, ?_⟩,
    fun r is s s' hr => ?_⟩
  · rw [clock_of_resets r _ hr, State.hardwareReset_hardwareReset]
  · exact run_cons_congr_of_next r r is s s' _ _ (clock_of_resets r s hr) (clock_of_resets r s' hr) rfl rfl

end Sys2Proof.Machine

/-! PROOFS. What the statements across the chapters share: words against operations, the two ROMs as linear maps, the laws of
the registers. -/

namespace Sys2Proof.Machine

/-! ## Words and operations -/

section WordsAndOperations

/-- The operand of a decoded word: its `data` where `op` is 1, 0x00 where `data` is ignored (R52). -/
theorem decode_data (w : Cmd) : (decode w).data = if w.toNat / 256 = 1 then dataField w else 0x00#8 := by
  rw [← opField_toNat, decode]
  rcases opValue_cases (opField w) with h | h | h | h | h | h | h | h <;> rw [h] <;> rfl

end WordsAndOperations

/-- Settles O4 (R51, R52, R59): a word is its `op` above its `data`, and decoding keeps the first and, for CONSUME, the
second. -/
theorem encodeDecodeAgree : Obligations.EncodeDecodeAgree := by
  refine ⟨decode_encode, fun w => ?_⟩
  rw [encode_eq_ofNat, decode_op_toNat, decode_data]
  split
  · apply BitVec.eq_of_toNat_eq
    simp only [dataField_eq_ofNat, BitVec.toNat_ofNat]
    omega
  · rw [BitVec.toNat_ofNat, Nat.zero_mod, Nat.add_zero, Nat.mul_comm]

/-! ## The ROMs as linear maps -/

section Linearity

theorem parRom_xor (a b : Byte) : parRom (a ^^^ b) = (parRom a ^^ parRom b) := parity_xor a b

/-- An AND with a selector is linear. -/
theorem xor_and_distrib (a b mask : Byte) : (a ^^^ b) &&& mask = (a &&& mask) ^^^ (b &&& mask) := by
  ext k hk
  simp [Bool.and_xor_distrib_right]

/-- Bit by bit, `COL` is a parity under a selector, and both are linear (20_memory.md section 6). -/
theorem colRom_xor (a b : Byte) : colRom (a ^^^ b) = colRom a ^^^ colRom b := by
  apply BitVec.eq_of_getLsbD_eq
  intro k hk
  simp only [BitVec.getLsbD_xor, colRom_getLsbD _ k hk, xor_and_distrib, parRom_xor, Bool.and_xor_distrib_left]

theorem colRom_not8 (v : Byte) : colRom (not8 v) = colRom v := by
  have hones : colRom 0xFF#8 = 0x00#8 := by decide
  rw [not8, colRom_xor, hones, BitVec.xor_zero]

theorem parRom_not8 (v : Byte) : parRom (not8 v) = parRom v := by
  have hones : parRom 0xFF#8 = false := by decide
  rw [not8, parRom_xor, hones, Bool.xor_false]

/-- The one-hot entry of `COL` at 2^i names i and 7 - i (20_memory.md section 6). -/
theorem colRom_one_shiftLeft : ∀ i < 8, colRom (1#8 <<< i) = BitVec.ofNat 8 (16 * i + (7 - i)) := by decide

end Linearity

/-- Settles O9 (R44): a complement is an exclusive-or with 0xFF, whose entries are 0. -/
theorem romsAreLinear : Obligations.RomsAreLinear :=
  ⟨fun a b => ⟨parRom_xor a b, colRom_xor a b⟩, fun v => ⟨colRom_not8 v, parRom_not8 v⟩, colRom_one_shiftLeft⟩

/-! ## The laws of the registers -/

section Laws

/-- Laws (a) to (d) of R22, one by one. -/
theorem syndromeLaws_iff (cp lp0 lp1 : Byte) :
    syndromeLaws cp lp0 lp1 = true ↔
      cp.getLsbD 7 = false ∧ cp.getLsbD 3 = false ∧
      lp0 = (if oddnessBit lp1 then not8 lp1 else lp1) ∧
      ∀ k < 3, (cp.getLsbD k ^^ cp.getLsbD (k + 4)) = oddnessBit lp1 := by
  have hthree (p : Nat → Prop) : (∀ k < 3, p k) ↔ p 0 ∧ p 1 ∧ p 2 := by
    simp only [Nat.forall_lt_succ_right, Nat.not_lt_zero, false_imp_iff, implies_true, true_and, and_assoc]
  rw [hthree]
  simp [syndromeLaws, and_assoc]

/-- `SEL[k]` and `SEL[k + 4]` are complements (R33), so the two bits of `COL[b]` add up to `PAR[b]`. -/
theorem colRom_bit_pair (b : Byte) (k : Nat) (hk : k < 3) :
    ((colRom b).getLsbD k ^^ (colRom b).getLsbD (k + 4)) = parRom b := by
  have hcompl : ∀ k < 3, selectors.getD (k + 4) 0#8 = ~~~selectors.getD k 0#8 := by decide
  have hlow : k < 7 := by omega
  have hhigh : k + 4 < 7 := by omega
  rw [colRom_getLsbD b k (by omega), colRom_getLsbD b (k + 4) (by omega), decide_eq_true hlow, decide_eq_true hhigh,
    Bool.true_and, Bool.true_and, ← parRom_xor, hcompl k hk, and_xor_and_not]

/-- Bits 7 and 3 of `COL[b]` are 0 (R34). -/
theorem colRom_getLsbD_seven (b : Byte) : (colRom b).getLsbD 7 = false := colRom_getLsbD b 7 (by decide)
theorem colRom_getLsbD_three (b : Byte) : (colRom b).getLsbD 3 = false := by
  have hzero : parRom 0#8 = false := by decide
  rw [colRom_getLsbD b 3 (by decide)]
  simp [selectors, hzero]

/-- An odd byte inverts the oddness bit, an even one leaves it. -/
theorem oddnessBit_xor (lp1 b : Byte) : oddnessBit (lp1 ^^^ b) = (oddnessBit lp1 ^^ parRom b) := by
  rw [oddnessBit, oddnessBit, parity_xor, Bool.not_xor, parRom]

theorem xor_not8 (a b : Byte) : a ^^^ not8 b = not8 (a ^^^ b) := by
  rw [not8, not8, BitVec.xor_assoc]

theorem not8_xor (a b : Byte) : not8 a ^^^ b = not8 (a ^^^ b) := by
  rw [BitVec.xor_comm, xor_not8, BitVec.xor_comm]

theorem not8_not8 (b : Byte) : not8 (not8 b) = b := by
  rw [not8, not8, BitVec.xor_assoc, BitVec.xor_self, BitVec.xor_zero]

/-- CONSUME keeps laws (a) to (d): the two bits of each pair of `COL[b]` add up to what the oddness bit changes by. -/
theorem State.consumeByte_syndromeOk (s : State) (b : Byte) (hs : s.syndromeOk = true) :
    (s.consumeByte b).syndromeOk = true := by
  obtain ⟨hseven, hthree, hlp0, hpairs⟩ := (syndromeLaws_iff s.cp s.lp0 s.lp1).mp hs
  have hodd : oddnessBit (s.consumeByte b).lp1 = (oddnessBit s.lp1 ^^ parRom b) := by
    rw [State.consumeByte_lp1]
    cases hp : parRom b with
    | true => simp [oddnessBit_xor, hp]
    | false => simp
  refine (syndromeLaws_iff _ _ _).mpr ⟨?_, ?_, ?_, fun k hk => ?_⟩
  · rw [State.consumeByte_cp, BitVec.getLsbD_xor, hseven, colRom_getLsbD_seven, Bool.xor_false]
  · rw [State.consumeByte_cp, BitVec.getLsbD_xor, hthree, colRom_getLsbD_three, Bool.xor_false]
  · rw [hodd, State.consumeByte_lp0, State.consumeByte_lp1, hlp0]
    cases parRom b <;> cases oddnessBit s.lp1 <;> simp [xor_not8, not8_xor, not8_not8]
  · have hb := colRom_bit_pair b k hk
    have hcp := hpairs k hk
    rw [hodd, State.consumeByte_cp, BitVec.getLsbD_xor, BitVec.getLsbD_xor, ← hcp, ← hb, Bool.xor_assoc, Bool.xor_assoc,
      Bool.xor_left_comm (BitVec.getLsbD (colRom b) k)]

theorem State.syndromeOk_congr (s t : State) (h : t.regs = s.regs) : t.syndromeOk = s.syndromeOk := by
  obtain ⟨hcp, hlp0, hlp1⟩ := (State.regs_eq_iff t s).mp h
  rw [State.syndromeOk, hcp, hlp0, hlp1, State.syndromeOk]

/-- The sentinel satisfies laws (a) to (d). -/
theorem State.syndromeOk_of_sentinel (s : State) (h : s.regs = (sentinelCp, sentinelLp0, sentinelLp1)) :
    s.syndromeOk = true :=
  (State.syndromeOk_congr State.reset s h).trans (by decide)

/-- Every operation keeps laws (a) to (d): the resets establish them and only CONSUME changes the registers otherwise. -/
theorem exec_keeps_syndromeOk (i : Instr) (s t : State) (hs : s.syndromeOk = true) (h : exec i s = .next t) :
    t.syndromeOk = true := by
  rcases exec_kinds i with ⟨op, hi⟩ | ⟨-, hi⟩ | ⟨b, -, hi⟩ | ⟨-, hi⟩ | ⟨r, -, -, -, hi⟩ <;> rw [hi] at h <;> cases h
  · exact State.syndromeOk_of_sentinel _ rfl
  · exact State.consumeByte_syndromeOk s b hs
  · exact hs
  · exact hs

/-- Every clock edge keeps laws (a) to (d) (R22). -/
theorem clock_keeps_syndromeOk (i : Input) (s t : State) (hs : s.syndromeOk = true) (h : clock i s = .next t) :
    t.syndromeOk = true := by
  obtain ⟨rst, w⟩ := i
  cases rst with
  | true => cases h; exact State.syndromeOk_of_sentinel _ rfl
  | false => exact exec_keeps_syndromeOk (decode w) s t hs h

theorem State.invariant_iff (s : State) :
    s.invariant = true ↔ s.syndromeOk = true ∧ s.phaseOk = true ∧ s.result.bytes.length ≤ 3 := by
  simp [State.invariant, State.resultOk, and_assoc]

end Laws

/-- Settles O28 (R22, R18, R54): a step is a clock edge on the state without its next input, and an edge keeps each of the
three. -/
theorem stepKeepsTheInvariant : Obligations.StepKeepsTheInvariant := by
  intro s t hs h
  obtain ⟨hlaws, hphase, -⟩ := (State.invariant_iff s).mp hs
  exact (State.invariant_iff t).mpr ⟨clock_keeps_syndromeOk s.nextInput s.popInput t hlaws h,
    clock_keeps_phaseOk s.nextInput s.popInput t hphase h, clock_result_length_le s.nextInput s.popInput t h⟩

/-- Settles O29: the reset state holds the sentinel, and its result no byte. -/
theorem resetMeetsTheInvariant : Obligations.ResetMeetsTheInvariant :=
  (State.invariant_iff State.reset).mpr
    ⟨State.syndromeOk_of_sentinel State.reset rfl, (State.phaseOk_iff State.reset).mpr fun _ => rfl, by decide⟩

end Sys2Proof.Machine

/-! PROOFS. Streams of bytes (spec/41_consume.md section 2): the exclusive-ors that a stream leaves in the registers, the closed
form of the code, and what of a stream does not matter. -/

namespace Sys2Proof.Machine

/-! ## Exclusive-ors along a stream -/

section ExclusiveOrs

theorem xor_left_comm (a b c : Byte) : a ^^^ (b ^^^ c) = b ^^^ (a ^^^ c) := by
  rw [← BitVec.xor_assoc, BitVec.xor_comm a b, BitVec.xor_assoc]

theorem xor_right_comm (a b c : Byte) : a ^^^ b ^^^ c = a ^^^ c ^^^ b := by
  rw [BitVec.xor_assoc, BitVec.xor_comm b, BitVec.xor_assoc]

/-- Two bytes, each under a gate of its own, may enter a register in either order. -/
theorem gated_xor_comm (p q : Bool) (v a b : Byte) :
    (if q then (if p then v ^^^ a else v) ^^^ b else if p then v ^^^ a else v) =
      if p then (if q then v ^^^ b else v) ^^^ a else if q then v ^^^ b else v := by
  cases p <;> cases q <;> simp [xor_right_comm v a b]

theorem xor_eq_left_iff (a b : Byte) : a ^^^ b = a ↔ b = 0x00#8 := by
  rw [← BitVec.xor_right_inj a (x := b) (y := 0x00#8), BitVec.xor_zero]

theorem xorAll_append (xs ys : List Byte) : xorAll (xs ++ ys) = xorAll xs ^^^ xorAll ys := by
  induction xs with
  | nil => simp
  | cons b xs ih => simp [ih, BitVec.xor_assoc]

/-- `COL` of a stream's exclusive-or: the ROM is linear. -/
theorem xorAll_map_colRom (bs : List Byte) : xorAll (bs.map colRom) = colRom (xorAll bs) := by
  induction bs with
  | nil => decide
  | cons b bs ih => rw [List.map_cons, xorAll_cons, ih, xorAll_cons, colRom_xor]

/-- The complements add one 0xFF for each byte, so 0xFF in all where their number is odd. -/
theorem xorAll_map_not8 (bs : List Byte) :
    xorAll (bs.map not8) = xorAll bs ^^^ if decide (bs.length % 2 = 1) then 0xFF#8 else 0x00#8 := by
  induction bs with
  | nil => rfl
  | cons b bs ih =>
    rw [List.map_cons, xorAll_cons, ih, xorAll_cons, List.length_cons, not8, BitVec.xor_assoc, BitVec.xor_assoc,
      xor_left_comm 0xFF#8]
    rcases Nat.mod_two_eq_zero_or_one bs.length with h | h <;> simp [h, Nat.add_mod]

/-- The odd-parity bytes add up to a byte of odd parity exactly where their number is odd. -/
theorem parRom_xorAll_oddBytes (bs : List Byte) :
    parRom (xorAll (oddBytes bs)) = decide ((oddBytes bs).length % 2 = 1) := by
  induction bs with
  | nil => decide
  | cons b bs ih =>
    cases hp : parRom b with
    | false => rwa [oddBytes, List.filter_cons_of_neg (by simp [hp])]
    | true =>
      rw [oddBytes, List.filter_cons_of_pos hp, xorAll_cons, parRom_xor, hp, ← oddBytes, ih, List.length_cons]
      rcases Nat.mod_two_eq_zero_or_one (oddBytes bs).length with h | h <;> simp [h, Nat.add_mod]

/-- Law (a) of R22: `COL` has neither bit 7 nor bit 3 (R34). -/
theorem colRom_and_0x88 (b : Byte) : colRom b &&& 0x88#8 = 0x00#8 := by
  have hmask : ∀ k < 8, k ≠ 7 → k ≠ 3 → (0x88#8).getLsbD k = false := by decide
  apply BitVec.eq_of_getLsbD_eq
  intro k hk
  rw [BitVec.getLsbD_and, BitVec.getLsbD_zero]
  by_cases h7 : k = 7
  · rw [h7, colRom_getLsbD_seven, Bool.false_and]
  · by_cases h3 : k = 3
    · rw [h3, colRom_getLsbD_three, Bool.false_and]
    · rw [hmask k hk h7 h3, Bool.and_false]

end ExclusiveOrs

/-! ## The state after a stream -/

section StreamState

theorem State.consumeBytes_append (s : State) (xs ys : List Byte) :
    s.consumeBytes (xs ++ ys) = (s.consumeBytes xs).consumeBytes ys :=
  List.foldl_append

/-- `cp` after a stream, from the exclusive-or of its bytes. -/
theorem State.consumeBytes_cp_eq (s : State) (bs : List Byte) :
    (s.consumeBytes bs).cp = s.cp ^^^ colRom (xorAll bs) := by
  rw [State.consumeBytes_cp, xorAll_map_colRom]

/-- Equal registers stay equal when the same stream is consumed. -/
theorem State.consumeBytes_regs_congr (s t : State) (bs : List Byte) (h : s.regs = t.regs) :
    (s.consumeBytes bs).regs = (t.consumeBytes bs).regs := by
  induction bs generalizing s t with
  | nil => exact h
  | cons b bs ih =>
    rw [State.consumeBytes_cons, State.consumeBytes_cons]
    exact ih _ _ (State.consumeByte_regs_congr s t b h)

/-- Two bytes may be consumed in either order. -/
theorem State.consumeByte_comm (s : State) (a b : Byte) :
    (s.consumeByte a).consumeByte b = (s.consumeByte b).consumeByte a := by
  apply State.ext_fields
  case hcp => simpa using xor_right_comm s.cp (colRom a) (colRom b)
  case hlp0 => simpa using gated_xor_comm (parRom a) (parRom b) s.lp0 (not8 a) (not8 b)
  case hlp1 => simpa using gated_xor_comm (parRom a) (parRom b) s.lp1 a b
  all_goals simp

/-- The order of the bytes does not matter (90_conflicts.md C1). -/
theorem State.consumeBytes_perm (s : State) (bs bs' : List Byte) (h : bs.Perm bs') :
    s.consumeBytes bs = s.consumeBytes bs' :=
  h.foldl_eq' (fun a _ b _ t => State.consumeByte_comm t a b) s

/-- A byte consumed twice leaves the registers (41_consume.md section 2). -/
theorem State.consumeByte_consumeByte_regs (s : State) (b : Byte) : ((s.consumeByte b).consumeByte b).regs = s.regs := by
  cases hp : parRom b <;> simp [State.regs, hp]

/-- A stream in which every byte occurs an even number of times leaves the registers: its first byte occurs again, and the two
cancel. -/
theorem State.consumeBytes_regs_of_even_counts (s : State) (bs : List Byte) (h : ∀ b, bs.count b % 2 = 0) :
    (s.consumeBytes bs).regs = s.regs := by
  induction hn : bs.length using Nat.strong_induction_on generalizing s bs with
  | _ n ih =>
    cases bs with
    | nil => rfl
    | cons b bs =>
      have hmem : b ∈ bs := by
        have hb := h b
        rw [List.count_cons_self] at hb
        exact List.count_pos_iff.mp (by omega)
      have hperm : (b :: bs).Perm (b :: b :: bs.erase b) := (List.perm_cons_erase hmem).cons b
      have heven (c : Byte) : (bs.erase b).count c % 2 = 0 := by
        have hc := h c
        rw [hperm.count_eq, List.count_cons, List.count_cons] at hc
        omega
      have hlen : (bs.erase b).length < n := by
        rw [← hn, List.length_cons]
        exact Nat.lt_succ_of_le List.length_erase_le
      calc (s.consumeBytes (b :: bs)).regs
          = (((s.consumeByte b).consumeByte b).consumeBytes (bs.erase b)).regs := by
            rw [State.consumeBytes_perm s _ _ hperm, State.consumeBytes_cons, State.consumeBytes_cons]
        _ = ((s.consumeByte b).consumeByte b).regs := ih _ hlen _ _ heven rfl
        _ = s.regs := State.consumeByte_consumeByte_regs s b

/-- The registers after a stream depend only on which bytes occur an odd number of times: two streams that agree in this cancel
each other. -/
theorem State.consumeBytes_regs_of_count_parity (s : State) (bs bs' : List Byte)
    (h : ∀ b, bs.count b % 2 = bs'.count b % 2) : (s.consumeBytes bs).regs = (s.consumeBytes bs').regs := by
  have heven (b : Byte) : (bs ++ bs').count b % 2 = 0 := by
    have hb := h b
    rw [List.count_append]
    omega
  have heven' (b : Byte) : (bs ++ bs).count b % 2 = 0 := by
    rw [List.count_append]
    omega
  have hperm : (bs ++ (bs ++ bs')).Perm (bs' ++ (bs ++ bs)) :=
    (List.append_assoc bs bs bs') ▸ List.perm_append_comm
  calc (s.consumeBytes bs).regs
      = (s.consumeBytes (bs ++ (bs ++ bs'))).regs := by
        rw [State.consumeBytes_append, State.consumeBytes_regs_of_even_counts _ _ heven]
    _ = (s.consumeBytes (bs' ++ (bs ++ bs))).regs := by rw [State.consumeBytes_perm s _ _ hperm]
    _ = (s.consumeBytes bs').regs := by
        rw [State.consumeBytes_append, State.consumeBytes_regs_of_even_counts _ _ heven']

/-- The registers after a stream from the sentinel, in closed form (41_consume.md section 2). -/
theorem State.consumeBytes_regs_closed (s : State) (bs : List Byte) (hs : s.regs = (sentinelCp, sentinelLp0, sentinelLp1)) :
    (s.consumeBytes bs).regs =
      (0x77#8 ^^^ colRom (xorAll bs),
       0x7F#8 ^^^ xorAll (oddBytes bs) ^^^ (if decide ((oddBytes bs).length % 2 = 1) then 0xFF#8 else 0x00#8),
       0x7F#8 ^^^ xorAll (oddBytes bs)) := by
  obtain ⟨hcp, hlp0, hlp1⟩ := (State.regs_eq_iff s State.reset).mp hs
  rw [State.regs, State.consumeBytes_cp_eq, State.consumeBytes_lp0, State.consumeBytes_lp1, xorAll_map_not8,
    ← BitVec.xor_assoc, hcp, hlp0, hlp1]
  rfl

end StreamState

/-! ## The obligations -/

/-- Settles O33 (90_conflicts.md C1): the bytes commute one by one, and every step answers the same. -/
theorem byteOrderDoesNotMatter : Obligations.ByteOrderDoesNotMatter := by
  intro bs bs' s h
  rw [run_consumeInputs, run_consumeInputs, State.consumeBytes_perm s bs bs' h, List.map_const', List.map_const',
    h.length_eq]

/-- Settles O35 (41_consume.md section 2, 10_state.md section 4). -/
theorem onlyOddOccurrencesCount : Obligations.OnlyOddOccurrencesCount := by
  refine ⟨fun s b => ⟨_, _, exec_consume b s, exec_consume b _, State.consumeByte_consumeByte_regs s b⟩,
    fun bs bs' s h => ?_⟩
  rw [run_consumeInputs, run_consumeInputs]
  exact congrArg some (State.consumeBytes_regs_of_count_parity s bs bs' h)

/-- Settles O34: the steps between the parts leave the registers, on which alone the second part works. -/
theorem splittingDoesNotMatter : Obligations.SplittingDoesNotMatter := by
  intro xs ys mid s hmid
  obtain ⟨r, rs, hrun⟩ := run_of_writesNoRegister mid (s.consumeBytes xs) hmid
  refine ⟨(s.consumeBytes (xs ++ ys)).regs, by rw [run_consumeInputs]; rfl, ?_⟩
  have hfirst : run (consumeInputs xs ++ mid) s =
      .next ((s.consumeBytes xs).answer r, (xs.map fun _ => ⟨true, []⟩) ++ rs) := by
    rw [run_append _ mid s _ _ (run_consumeInputs xs s), hrun]
  rw [run_append _ _ s _ _ hfirst, run_consumeInputs, State.consumeBytes_append]
  exact congrArg some (State.consumeBytes_regs_congr _ _ ys (State.answer_regs _ r))

/-- The bytes whose column mask is 0x00, the sixteen of 41_consume.md section 2. -/
theorem colRom_eq_zero_iff : ∀ b : Byte, colRom b = 0x00#8 ↔
    b ∈ [0x00#8, 0x0F#8, 0x33#8, 0x3C#8, 0x55#8, 0x5A#8, 0x66#8, 0x69#8,
      0x96#8, 0x99#8, 0xA5#8, 0xAA#8, 0xC3#8, 0xCC#8, 0xF0#8, 0xFF#8] := by decide +kernel

theorem ne_zero_of_parRom (b : Byte) (h : parRom b = true) : b ≠ 0x00#8 := by
  rintro rfl
  exact absurd h (by decide)

/-- Settles O36 (41_consume.md section 2): `cp` changes where `COL[b]` is not 0x00, which is so of every byte of odd parity. -/
theorem identityBytesAreTheSixteen : Obligations.IdentityBytesAreTheSixteen := by
  intro b s
  have hcp : (s.consumeByte b).cp = s.cp ↔ colRom b = 0x00#8 := by rw [State.consumeByte_cp, xor_eq_left_iff]
  have hregs : (s.consumeByte b).regs = s.regs ↔ colRom b = 0x00#8 :=
    ⟨fun h => hcp.mp ((State.regs_eq_iff _ _).mp h).1, State.consumeByte_regs_of_colRom_eq_zero s b⟩
  refine ⟨_, exec_consume b s, hregs.trans (colRom_eq_zero_iff b), fun hne heq => hne (hregs.mpr (hcp.mp heq)),
    fun heven => ?_, fun hodd => ⟨fun h => ?_, fun h => ?_, fun h => ?_⟩⟩
  · simp [heven]
  · rw [parRom_eq_false_of_colRom_eq_zero b (hcp.mp h)] at hodd
    cases hodd
  · rw [State.consumeByte_lp0, if_pos hodd, xor_eq_left_iff] at h
    exact ne_zero_of_parRom (not8 b) ((parRom_not8 b).trans hodd) h
  · rw [State.consumeByte_lp1, if_pos hodd, xor_eq_left_iff] at h
    exact ne_zero_of_parRom b hodd h

/-- Settles O37 (41_consume.md section 2): `cp` is linear in the exclusive-or of the bytes, which the flipped bit changes by
2^i. -/
theorem flippedBitShowsInCp : Obligations.FlippedBitShowsInCp := by
  intro xs ys b i s hi
  have hbit : ∀ i < 8, parRom (1#8 <<< i) = true := by decide
  have hstream : xorAll (xs ++ (b ^^^ (1#8 <<< i)) :: ys) = xorAll (xs ++ b :: ys) ^^^ (1#8 <<< i) := by
    rw [xorAll_append, xorAll_append, xorAll_cons, xorAll_cons, BitVec.xor_assoc, BitVec.xor_assoc, BitVec.xor_assoc,
      BitVec.xor_comm (1#8 <<< i)]
  refine ⟨_, _, _, _, run_consumeInputs _ s, run_consumeInputs _ s, ?_, ?_⟩
  · rw [State.consumeBytes_cp_eq, State.consumeBytes_cp_eq, hstream, colRom_xor, ← BitVec.xor_assoc s.cp,
      ← BitVec.xor_assoc, BitVec.xor_self, BitVec.zero_xor, colRom_one_shiftLeft i hi]
  · rw [parRom_xor, hbit i hi, Bool.xor_true]

/-- Settles O32 (R86, R95): the registers in closed form, and the code read off them. -/
theorem codeInClosedForm : Obligations.CodeInClosedForm := by
  intro bs s x y odd hx hy hodd
  have hpar : parity (0x7F#8 ^^^ y) = !odd := by
    have hmask : parity 0x7F#8 = true := by decide
    rw [parity_xor, hmask, Bool.true_xor, ← parRom, hy, hodd, parRom_xorAll_oddBytes]
  have hregs := State.consumeBytes_regs_closed s.hardwareReset bs rfl
  rw [← hx, ← hy, ← hodd] at hregs
  have hcode : (s.hardwareReset.consumeBytes bs).code =
      [0x77#8 ^^^ colRom x, (0x7F#8 ^^^ y ^^^ (if odd then 0xFF#8 else 0x00#8)) &&& 0x7F#8, 0x7F#8 ^^^ y] := by
    simp only [State.regs, Prod.mk.injEq] at hregs
    obtain ⟨hcp, hlp0, hlp1⟩ := hregs
    rw [State.code, hcp, hlp0, hlp1, outputMask]
  have hrun := run_append_finalize _ s _ _ (run_constructInput_consumeInputs bs s)
  refine ⟨_, _, _, _, _, hrun, hregs, (List.getLast?_concat).trans (by rw [hcode]), rfl, ?_, ?_, rfl, ?_, ?_⟩
  · rw [xor_and_distrib, colRom_and_0x88]
    decide
  · cases odd
    · simp [xor_and_distrib]
    · simp [xor_and_distrib]
  · rw [hpar, Bool.not_not]
  · cases odd
    · simp
    · simp [not8]

end Sys2Proof.Machine

/-! PROOFS. The reachable register triples (spec/10_state.md section 4), the ports (spec/30_encoding.md section 1), and whole
runs: which complete, through the queue, without their NOP steps, and what a run cannot show. -/

namespace Sys2Proof.Machine

/-! ## Lawful triples -/

section Reachable

/-- The laws leave nothing open but `cp[2:0]` and `lp1`: the other bits of `cp`, and `lp0`, follow from them. -/
theorem syndromeLaws_unique (cp cp' lp0 lp0' lp1 : Byte) (h : syndromeLaws cp lp0 lp1 = true)
    (h' : syndromeLaws cp' lp0' lp1 = true) (hlow : cp.extractLsb' 0 3 = cp'.extractLsb' 0 3) : cp = cp' ∧ lp0 = lp0' := by
  obtain ⟨hseven, hthree, hlp0, hpairs⟩ := (syndromeLaws_iff cp lp0 lp1).mp h
  obtain ⟨hseven', hthree', hlp0', hpairs'⟩ := (syndromeLaws_iff cp' lp0' lp1).mp h'
  have hbits (k : Nat) (hk : k < 3) : cp.getLsbD k = cp'.getLsbD k := by
    simpa [hk] using congrArg (fun v => v.getLsbD k) hlow
  have hhigh (k : Nat) (hk : k < 3) : cp.getLsbD (k + 4) = cp'.getLsbD (k + 4) := by
    have hpair := (hpairs k hk).trans (hpairs' k hk).symm
    rwa [hbits k hk, Bool.xor_right_inj] at hpair
  refine ⟨BitVec.eq_of_getLsbD_eq fun k hk => ?_, hlp0.trans hlp0'.symm⟩
  obtain hk3 | rfl | ⟨j, hj, rfl⟩ | rfl : k < 3 ∨ k = 3 ∨ (∃ j < 3, k = j + 4) ∨ k = 7 := by
    rcases Nat.lt_or_ge k 4 with h4 | h4
    · omega
    · rcases Nat.lt_or_ge k 7 with h7 | h7
      · exact .inr (.inr (.inl ⟨k - 4, by omega, by omega⟩))
      · omega
  · exact hbits k hk3
  · rw [hthree, hthree']
  · exact hhigh j hj
  · rw [hseven, hseven']

/-- What CONSUME keeps, a stream keeps: laws (a) to (d). -/
theorem State.consumeBytes_syndromeOk (s : State) (bs : List Byte) (hs : s.syndromeOk = true) :
    (s.consumeBytes bs).syndromeOk = true :=
  run_keeps _ clock_keeps_syndromeOk _ s _ _ hs (run_consumeInputs bs s)

/-- One byte of odd parity, or two, bring `lp1` to any value. -/
theorem exists_stream_lp1 (s : State) (lp1 : Byte) : ∃ bs, (s.consumeBytes bs).lp1 = lp1 := by
  have hone : parRom 0x01#8 = true := by decide
  cases hp : parRom (s.lp1 ^^^ lp1) with
  | true => exact ⟨[s.lp1 ^^^ lp1], by simp [hp]⟩
  | false =>
    have hodd : parRom ((s.lp1 ^^^ lp1) ^^^ 0x01#8) = true := by rw [parRom_xor, hp, hone, Bool.false_xor]
    refine ⟨[(s.lp1 ^^^ lp1) ^^^ 0x01#8, 0x01#8], ?_⟩
    rw [State.consumeBytes_lp1, oddBytes, List.filter_cons_of_pos hodd, List.filter_cons_of_pos hone, List.filter_nil]
    simp

/-- A byte of even parity whose column mask has `d` in bits 2 to 0 (and, by law (d), in bits 6 to 4): the flips at bits `d` and
0 together. -/
theorem exists_even_byte_with_low_mask (d : BitVec 3) :
    ∃ b : Byte, parRom b = false ∧ (colRom b).extractLsb' 0 3 = d := by
  refine ⟨(1#8 <<< d.toNat) ^^^ 0x01#8, ?_⟩
  revert d
  decide

/-- Streams reach every value of `cp[2:0]` and `lp1` together. -/
theorem exists_stream_cp_low_lp1 (s : State) (c : BitVec 3) (lp1 : Byte) :
    ∃ bs, (s.consumeBytes bs).cp.extractLsb' 0 3 = c ∧ (s.consumeBytes bs).lp1 = lp1 := by
  obtain ⟨bs, hbs⟩ := exists_stream_lp1 s lp1
  obtain ⟨b, heven, hmask⟩ := exists_even_byte_with_low_mask ((s.consumeBytes bs).cp.extractLsb' 0 3 ^^^ c)
  refine ⟨bs ++ [b], ?_, ?_⟩ <;> rw [State.consumeBytes_append, State.consumeBytes_cons, State.consumeBytes_nil]
  · rw [State.consumeByte_cp, BitVec.extractLsb'_xor, hmask, ← BitVec.xor_assoc, BitVec.xor_self, BitVec.zero_xor]
  · rw [State.consumeByte_lp1, heven]
    exact hbs

/-- A run that begins with a hardware reset ends in registers with laws (a) to (d), whatever state it begins in (R22). -/
theorem run_syndromeOk_of_beginsWithReset (is : List Input) (s t : State) (rs : List Result)
    (hreset : beginsWithReset is = true) (h : run is s = .next (t, rs)) : t.syndromeOk = true := by
  cases is with
  | nil => cases hreset
  | cons i is =>
    obtain ⟨rst, w⟩ := i
    cases hreset
    obtain ⟨s', rs', hc, hr, -⟩ := run_cons_eq_next _ is s t rs h
    cases hc
    exact run_keeps _ clock_keeps_syndromeOk is _ t rs' (State.syndromeOk_of_sentinel _ rfl) hr

end Reachable

/-- Settles O30 (R22): the laws hold along every run; a lawful triple is the one with its `cp[2:0]` and `lp1`, and some stream
reaches these two values. -/
theorem reachableTriplesAreTheLawful : Obligations.ReachableTriplesAreTheLawful := by
  have hlawful (bs : List Byte) : (State.reset.hardwareReset.consumeBytes bs).syndromeOk = true :=
    State.consumeBytes_syndromeOk _ bs (State.syndromeOk_of_sentinel _ rfl)
  refine ⟨fun cp lp0 lp1 => ⟨fun h => ?_, ?_⟩, fun c lp1 => ?_⟩
  · obtain ⟨bs, hlow, rfl⟩ := exists_stream_cp_low_lp1 State.reset.hardwareReset (cp.extractLsb' 0 3) lp1
    obtain ⟨hcp, hlp0⟩ := syndromeLaws_unique _ _ _ _ _ (hlawful bs) h hlow
    exact ⟨_, State.reset, _, _, rfl, run_constructInput_consumeInputs bs State.reset, by rw [State.regs, hcp, hlp0]⟩
  · rintro ⟨is, s, t, rs, hreset, hrun, hregs⟩
    obtain ⟨rfl, rfl, rfl⟩ : t.cp = cp ∧ t.lp0 = lp0 ∧ t.lp1 = lp1 := by simpa [State.regs] using hregs
    exact run_syndromeOk_of_beginsWithReset is s t rs hreset hrun
  · obtain ⟨bs, hlow, rfl⟩ := exists_stream_cp_low_lp1 State.reset.hardwareReset c lp1
    refine ⟨(_, _), ⟨hlawful bs, hlow⟩, ?_⟩
    rintro ⟨cp, lp0⟩ ⟨h, hc⟩
    obtain ⟨hcp, hlp0⟩ := syndromeLaws_unique _ _ _ _ _ h (hlawful bs) (hc.trans hlow.symm)
    exact Prod.ext hcp hlp0

/-! ## The ports -/

/-- Settles O19 (R50): a step's result depends on the registers alone, and so does the free value shown for a refused one. -/
theorem outputsAreCombinational : Obligations.OutputsAreCombinational := by
  refine ⟨fun i s s' h => ?_, fun w w' s s' => ?_⟩
  · obtain ⟨t, t', ht, ht', -, hresult⟩ | ⟨r, hr, hr'⟩ := clock_regs_congr i s s' h
    · rw [outputs_of_clock_next i s t ht, outputs_of_clock_next i s' t' ht', hresult]
    · obtain ⟨hcp, hlp0, hlp1⟩ := (State.regs_eq_iff s s').mp h
      rw [outputs, outputs, hr, hr', hcp, hlp0, hlp1]
  · rw [outputs_of_clock_next _ s _ (clock_rst w s), outputs_of_clock_next _ s' _ (clock_rst w' s')]
    rfl

/-! ## Which runs complete -/

/-- Settles O41 (R128, R102), by induction on the inputs: a step completes exactly when its input is legal, and gives one
result. -/
theorem legalRunsNeverStop : Obligations.LegalRunsNeverStop := by
  intro is s
  induction is generalizing s with
  | nil => simp
  | cons i is ih =>
    obtain ⟨hlegal, t, ht⟩ | ⟨hlegal, r, hr⟩ := clock_legal_cases i s
    · rw [List.forall_mem_cons, and_iff_right hlegal, ih t]
      constructor
      · rintro ⟨u, rs, hrun, hlen⟩
        refine ⟨u, t.result :: rs, ?_, by rw [List.length_cons, List.length_cons, hlen]⟩
        rw [run_cons_next i is s t ht, hrun]
      · rintro ⟨u, rs, hrun, hlen⟩
        obtain ⟨t', rs', ht', hrun', rfl⟩ := run_cons_eq_next i is s u rs hrun
        obtain rfl : t = t' := by rw [ht] at ht'; cases ht'; rfl
        exact ⟨u, rs', hrun', Nat.succ.inj hlen⟩
    · rw [run_cons_refused i is s r hr]
      simp [hlegal]

/-! ## The queue -/

section Queue

/-- A clock edge leaves the queue as it is: only `step` takes an input off it. -/
theorem clock_inputs (i : Input) (s t : State) (h : clock i s = .next t) : t.inputs = s.inputs := by
  have hsame : clock i s = .next { t with inputs := s.inputs } := clock_with_inputs i s t s.inputs h
  rw [h] at hsame
  rw [Host.Outcome.next.inj hsame]

/-- A step on a queue that is not empty is a clock edge with its head, on the state with the rest of the queue. -/
theorem step_of_inputs_cons (s : State) (i : Input) (rest : List Input) (h : s.inputs = i :: rest) :
    step s = clock i { s with inputs := rest } := by
  rw [step, State.nextInput_cons s i rest h, State.popInput, h, List.tail_cons]

theorem stepMany_succ_next (k : Nat) (s t : State) (h : step s = .next t) : stepMany (k + 1) s = stepMany k t := by
  rw [stepMany, h]

theorem stepMany_succ_refused (k : Nat) (s : State) (r : Refusal) (h : step s = .refused r) :
    stepMany (k + 1) s = .refused r := by
  rw [stepMany, h]

/-- Where a run ends, its results left out. -/
def finalState : Host.Outcome (State × List Result) Fault Refusal → Host.Outcome State Fault Refusal
  | .next (t, _) => .next t
  | .fault f => .fault f
  | .refused r => .refused r

theorem finalState_run_cons_next (i : Input) (is : List Input) (s t : State) (h : clock i s = .next t) :
    finalState (run (i :: is) s) = finalState (run is t) := by
  rw [run_cons_next i is s t h]
  rcases run is t with ⟨_, _⟩ | _ | _ <;> rfl

/-- As many steps as there are inputs ahead in the queue end as the run of these inputs does. -/
theorem stepMany_eq_finalState_run (is rest : List Input) (s : State) (h : s.inputs = is ++ rest) :
    stepMany is.length s = finalState (run is { s with inputs := rest }) := by
  induction is generalizing s with
  | nil =>
    have hs : { s with inputs := rest } = s := by rw [← (show s.inputs = rest from h)]
    rw [hs]
    rfl
  | cons i is ih =>
    have hstep : step s = clock i { s with inputs := is ++ rest } := step_of_inputs_cons s i (is ++ rest) h
    cases hc : clock i { s with inputs := is ++ rest } with
    | fault f => cases f
    | refused r =>
      obtain ⟨_, _, ht, -⟩ | ⟨r', hr, hr'⟩ :=
        clock_regs_congr i { s with inputs := is ++ rest } { s with inputs := rest } rfl
      · rw [hc] at ht; cases ht
      · rw [hc] at hr
        cases hr
        rw [List.length_cons, stepMany_succ_refused _ s r (hstep.trans hc), run_cons_refused i is _ r hr']
        rfl
    | next t =>
      have hrest : clock i { s with inputs := rest } = .next { t with inputs := rest } :=
        clock_with_inputs i { s with inputs := is ++ rest } t rest hc
      rw [List.length_cons, stepMany_succ_next _ s t (hstep.trans hc), finalState_run_cons_next i is _ _ hrest]
      exact ih t (clock_inputs i _ t hc)

end Queue

/-- Settles O42. -/
theorem queueRunIsRunOfInputs : Obligations.QueueRunIsRunOfInputs := stepMany_eq_finalState_run

/-- Settles O25 (R60): a clock edge with the head of the queue. -/
theorem stepRunsThePresentedCommand : Obligations.StepRunsThePresentedCommand := by
  refine fun s w rest => ⟨fun h => ?_, fun h => ⟨fun _ => ?_, fun hwf => ⟨(decode w).op, ?_⟩⟩⟩
  · rw [step_of_inputs_cons s _ rest h, clock_rst]
    rfl
  · rw [step_of_inputs_cons s _ rest h, clock_cmd]
  · rw [step_of_inputs_cons s _ rest h, clock_cmd, exec_refused_of_not_wf _ _ hwf]

/-- Settles O26: the idle input is NOP, and there is nothing to take off the queue. -/
theorem emptyQueueIdles : Obligations.EmptyQueueIdles := by
  intro s h
  have hpop : s.popInput = s := by rw [State.popInput, h, List.tail_nil, ← h]
  have hstep : step s = exec .nop s := by
    rw [step, State.nextInput_nil s h, hpop, idleInput, clock_cmd]
    rfl
  exact ⟨hstep, hstep.trans (exec_nop s)⟩

/-! ## NOP steps -/

section NopSteps

theorem State.consumeByte_answer (s : State) (b : Byte) (r : Result) : (s.answer r).consumeByte b = s.consumeByte b := by
  apply State.ext_fields <;> simp

/-- A clock edge neither reads the last result nor leaves any of it. -/
theorem clock_answer (i : Input) (s : State) (r : Result) : clock i (s.answer r) = clock i s := by
  obtain ⟨rst, w⟩ := i
  cases rst with
  | true => rfl
  | false =>
    rw [clock_cmd, clock_cmd]
    rcases exec_kinds (decode w) with ⟨op, hi⟩ | ⟨-, hi⟩ | ⟨b, -, hi⟩ | ⟨-, hi⟩ | ⟨r', -, -, -, hi⟩ <;>
      rw [hi, hi]
    · rfl
    · rw [State.consumeByte_answer]
    · rfl
    · rfl

/-- A run that completes from a state with another last result completes with the same registers, phase and results. -/
theorem run_of_run_answer (is : List Input) (s t : State) (r : Result) (rs : List Result)
    (h : run is (s.answer r) = .next (t, rs)) :
    ∃ t', run is s = .next (t', rs) ∧ t'.regs = t.regs ∧ t'.phase = t.phase := by
  cases is with
  | nil => cases h; exact ⟨s, rfl, rfl, rfl⟩
  | cons i is =>
    obtain ⟨s', rs', hc, hrun, rfl⟩ := run_cons_eq_next i is _ t rs h
    rw [clock_answer] at hc
    exact ⟨t, by rw [run_cons_next i is s s' hc, hrun], rfl, rfl⟩

theorem Input.isNop_iff (i : Input) : i.isNop = true ↔ i.rst = false ∧ decode i.cmd = .nop := by
  simp [Input.isNop]

/-- A step with NOP changes the last result only (R70). -/
theorem clock_of_isNop (i : Input) (s : State) (h : i.isNop = true) : clock i s = .next (s.answer Result.silent) := by
  obtain ⟨rst, w⟩ := i
  obtain ⟨rfl, hnop⟩ := (Input.isNop_iff _).mp h
  rw [clock_cmd, hnop, exec_nop]

end NopSteps

/-- Settles O43 (R61), by induction on the inputs: a NOP step leaves a state from which the other steps go on as without it. -/
theorem nopStepsAreInvisible : Obligations.NopStepsAreInvisible := by
  intro is s t rs h
  induction is generalizing s rs with
  | nil => cases h; exact ⟨t, [], rfl, rfl, rfl, rfl⟩
  | cons i is ih =>
    obtain ⟨s', rs₁, hc, hrun, rfl⟩ := run_cons_eq_next i is s t rs h
    obtain ⟨t', rs', hrun', hregs, hphase, hrs'⟩ := ih s' rs₁ hrun
    cases hi : i.isNop with
    | true =>
      rw [clock_of_isNop i s hi] at hc
      cases hc
      obtain ⟨u, hu, huregs, huphase⟩ := run_of_run_answer _ s t' _ rs' hrun'
      exact ⟨u, rs', by simpa [hi] using hu, huregs.trans hregs, huphase.trans hphase, by simp [hi, hrs']⟩
    | false =>
      refine ⟨t', s'.result :: rs', ?_, hregs, hphase, by simp [hi, hrs']⟩
      rw [List.filter_cons_of_pos (by simp [hi]), run_cons_next i _ s s' hc, hrun']

/-! ## What a run cannot show -/

section Visible

/-- What the host can observe of the registers: all but bit 7 of `lp0` (60_exceptions.md section 6). -/
def State.visible (s : State) : Byte × Byte × Byte := (s.cp, s.lp0 &&& outputMask, s.lp1)

theorem State.visible_eq_iff (s t : State) :
    s.visible = t.visible ↔ s.cp = t.cp ∧ s.lp0 &&& outputMask = t.lp0 &&& outputMask ∧ s.lp1 = t.lp1 := by
  simp [State.visible]

/-- The code shows the visible part and nothing else. -/
theorem State.code_eq_of_visible (s t : State) (h : s.visible = t.visible) : s.code = t.code := by
  obtain ⟨hcp, hlp0, hlp1⟩ := (State.visible_eq_iff s t).mp h
  rw [State.code, State.code, hcp, hlp0, hlp1]

/-- CONSUME never moves bit 7 of `lp0` into another bit. -/
theorem State.consumeByte_visible_congr (s t : State) (b : Byte) (h : s.visible = t.visible) :
    (s.consumeByte b).visible = (t.consumeByte b).visible := by
  obtain ⟨hcp, hlp0, hlp1⟩ := (State.visible_eq_iff s t).mp h
  refine (State.visible_eq_iff _ _).mpr ⟨?_, ?_, ?_⟩
  · rw [State.consumeByte_cp, State.consumeByte_cp, hcp]
  · rw [State.consumeByte_lp0, State.consumeByte_lp0]
    split
    · rw [xor_and_distrib, xor_and_distrib, hlp0]
    · exact hlp0
  · rw [State.consumeByte_lp1, State.consumeByte_lp1, hlp1]

/-- A clock edge shows nothing of the registers but their visible part, and what it leaves visible depends on nothing else. -/
theorem clock_visible_congr (i : Input) (s s' : State) (h : s.visible = s'.visible) :
    (∃ t t', clock i s = .next t ∧ clock i s' = .next t' ∧ t.visible = t'.visible ∧ t.result = t'.result) ∨
    ∃ r, clock i s = .refused r ∧ clock i s' = .refused r := by
  obtain ⟨rst, w⟩ := i
  cases rst with
  | true => exact .inl ⟨_, _, clock_rst w s, clock_rst w s', rfl, rfl⟩
  | false =>
    rw [clock_cmd, clock_cmd]
    rcases exec_kinds (decode w) with ⟨op, hi⟩ | ⟨-, hi⟩ | ⟨b, -, hi⟩ | ⟨-, hi⟩ | ⟨r, -, -, -, hi⟩
    · exact .inr ⟨_, hi s, hi s'⟩
    · exact .inl ⟨_, _, hi s, hi s', rfl, rfl⟩
    · exact .inl ⟨_, _, hi s, hi s', State.consumeByte_visible_congr s s' b h, rfl⟩
    · exact .inl ⟨_, _, hi s, hi s', h, congrArg (Result.mk false) (State.code_eq_of_visible s s' h)⟩
    · exact .inl ⟨_, _, hi s, hi s', h, rfl⟩

/-- The results of a run depend on the visible part of the registers alone. -/
theorem resultsOf_run_visible_congr (is : List Input) (s s' : State) (h : s.visible = s'.visible) :
    resultsOf (run is s) = resultsOf (run is s') := by
  induction is generalizing s s' with
  | nil => rfl
  | cons i is ih =>
    obtain ⟨t, t', ht, ht', hvisible, hresult⟩ | ⟨r, hr, hr'⟩ := clock_visible_congr i s s' h
    · rw [(results_cons_next i is s t ht).1, (results_cons_next i is s' t' ht').1, ih t t' hvisible, hresult]
    · rw [run_cons_refused i is s r hr, run_cons_refused i is s' r hr']

end Visible

/-- Settles O44 (R93, R113). -/
theorem hiddenBitsAreUnobservable : Obligations.HiddenBitsAreUnobservable := fun is s s' hcp hlp0 hlp1 =>
  resultsOf_run_visible_congr is s s' ((State.visible_eq_iff s s').mpr ⟨hcp, hlp0, hlp1⟩)

end Sys2Proof.Machine

/-! PROOFS. Around the block: the decoder's vectors (spec/95_test_vectors.md section 3), the calls of the interface
(spec/60_exceptions.md section 6), several accumulators on one platform (spec/60_exceptions.md section 5). -/

namespace Sys2Proof.Machine

/-- Settles O3: fixed words, by evaluation. -/
theorem specDecoderVectors : Obligations.SpecDecoderVectors := by
  unfold Obligations.SpecDecoderVectors
  decide

/-! ## Calls of one step -/

section OneStepCalls

/-- A call of one step replies from that step's result. -/
theorem call_of_one_step (c : Call) (i : Input) (s t : State) (hc : c.inputs = [i]) (h : clock i s = .next t) :
    call c s = .next (t, c.reply [t.result]) := by
  rw [call, hc, run_cons_next i [] s t h, run_nil]

/-- A call of one operation. -/
theorem call_of_command (c : Call) (i : Instr) (s t : State) (hc : c.inputs = [commandInput i]) (h : exec i s = .next t) :
    call c s = .next (t, c.reply [t.result]) :=
  call_of_one_step c _ s t hc ((clock_commandInput i s).trans h)

end OneStepCalls

/-- Settles O47 (R57, R58, R113): each call is one step. -/
theorem otherCallsOfTheInterface : Obligations.OtherCallsOfTheInterface := fun s =>
  ⟨call_of_one_step .construct _ s _ rfl (clock_constructInput s),
    call_of_command .reset _ s _ rfl (exec_reset s),
    call_of_command .blockSize _ s _ rfl (exec_blockSize s),
    call_of_command .codeSize _ s _ rfl (exec_codeSize s),
    call_of_command .idle _ s _ rfl (exec_nop s)⟩

/-! ## Several accumulators -/

section Accumulators

/-- What a platform step that completes has done: nothing where there is no accumulator `k`, otherwise one step of that
accumulator, whose state it replaced. -/
theorem stepAt_eq_next (p q : Platform) (k : Nat) (h : p.stepAt k = .next q) :
    (p[k]? = none ∧ q = p) ∨ ∃ s t, p[k]? = some s ∧ step s = .next t ∧ q = p.set k t := by
  unfold Platform.stepAt at h
  cases hk : p[k]? with
  | none => rw [hk] at h; cases h; exact .inl ⟨rfl, rfl⟩
  | some s =>
    rw [hk] at h
    cases hs : step s with
    | next t => simp only [hs] at h; cases h; exact .inr ⟨s, t, rfl, hs, rfl⟩
    | fault f => cases f
    | refused r => simp only [hs] at h; cases h

theorem stepAt_length (p q : Platform) (k : Nat) (h : p.stepAt k = .next q) : q.length = p.length := by
  obtain ⟨-, rfl⟩ | ⟨s, t, -, -, rfl⟩ := stepAt_eq_next p q k h
  · rfl
  · exact List.length_set

/-- The other accumulators are unchanged (R20). -/
theorem stepAt_getElem?_of_ne (p q : Platform) (k j : Nat) (h : p.stepAt k = .next q) (hne : j ≠ k) : q[j]? = p[j]? := by
  obtain ⟨-, rfl⟩ | ⟨s, t, -, -, rfl⟩ := stepAt_eq_next p q k h
  · rfl
  · exact List.getElem?_set_ne hne.symm

/-- The accumulator that steps is in the state of its own step. -/
theorem stepAt_getElem?_self (p q : Platform) (k : Nat) (s : State) (h : p.stepAt k = .next q) (hk : p[k]? = some s) :
    ∃ t, step s = .next t ∧ q[k]? = some t := by
  obtain ⟨hnone, -⟩ | ⟨s', t, hs', ht, rfl⟩ := stepAt_eq_next p q k h
  · rw [hk] at hnone; cases hnone
  · rw [hk] at hs'
    cases hs'
    obtain ⟨hlt, -⟩ := List.getElem?_eq_some_iff.mp hk
    exact ⟨t, ht, List.getElem?_set_self hlt⟩

/-- A platform step of an accumulator that does not exist leaves it so. -/
theorem stepAt_getElem?_self_none (p q : Platform) (k : Nat) (h : p.stepAt k = .next q) (hk : p[k]? = none) :
    q[k]? = none := by
  rw [List.getElem?_eq_none_iff] at hk ⊢
  rwa [stepAt_length p q k h]

/-- A schedule that completes takes its first step and completes from there. -/
theorem runSchedule_cons_eq_next (k : Nat) (ks : List Nat) (p q : Platform)
    (h : Platform.runSchedule (k :: ks) p = .next q) :
    ∃ p', p.stepAt k = .next p' ∧ Platform.runSchedule ks p' = .next q := by
  rw [Platform.runSchedule] at h
  cases hk : p.stepAt k with
  | next p' => rw [hk] at h; exact ⟨p', rfl, h⟩
  | fault f => cases f
  | refused r => rw [hk] at h; cases h

end Accumulators

/-- Settles O50 (R20, R109). -/
theorem instancesDoNotInteract : Obligations.InstancesDoNotInteract := by
  refine ⟨stepAt_getElem?_of_ne, fun p p' q q' k heq h h' => ?_⟩
  cases hk : p[k]? with
  | none => rw [stepAt_getElem?_self_none p q k h hk, stepAt_getElem?_self_none p' q' k h' (heq.symm.trans hk)]
  | some s =>
    obtain ⟨t, ht, hq⟩ := stepAt_getElem?_self p q k s h hk
    obtain ⟨t', ht', hq'⟩ := stepAt_getElem?_self p' q' k s h' (heq.symm.trans hk)
    rw [ht] at ht'
    cases ht'
    rw [hq, hq']

/-- Settles O51 (R109), by induction on the schedule: a step is one of accumulator j, or leaves it as it is. -/
theorem interleavingEqualsRunningAlone : Obligations.InterleavingEqualsRunningAlone := by
  intro ks p q h
  induction ks generalizing p with
  | nil => cases h; exact ⟨rfl, fun j s hs => ⟨s, hs, rfl⟩⟩
  | cons k ks ih =>
    obtain ⟨p', hk, hrest⟩ := runSchedule_cons_eq_next k ks p q h
    obtain ⟨hlen, halone⟩ := ih p' hrest
    refine ⟨hlen.trans (stepAt_length p p' k hk), fun j s hs => ?_⟩
    rcases eq_or_ne j k with rfl | hne
    · obtain ⟨t, ht, hp'⟩ := stepAt_getElem?_self p p' j s hk hs
      rw [List.count_cons_self, stepMany_succ_next _ s t ht]
      exact halone j t hp'
    · rw [List.count_cons_of_ne hne.symm]
      exact halone j s ((stepAt_getElem?_of_ne p p' k j hk hne).trans hs)

end Sys2Proof.Machine

/-! PROOFS. The assembler (spec/30_encoding.md section 4): what it makes of a mnemonic with operands, of a printed byte, of
decimal digits and of a printed list. -/

namespace Sys2Proof.Machine

/-! ## Texts without blanks, commas and semicolons -/

section PlainTexts

/-- A text that no function of the assembler cuts or trims. -/
def PlainText (cs : List Char) : Prop := ∀ c ∈ cs, isBlank c = false ∧ c ≠ ';' ∧ c ≠ ','

theorem PlainText.no_semicolon {cs : List Char} (h : PlainText cs) : ';' ∉ cs := fun hmem =>
  have ⟨_, hsemi, _⟩ := h _ hmem
  hsemi rfl

theorem PlainText.no_comma {cs : List Char} (h : PlainText cs) : ',' ∉ cs := fun hmem =>
  have ⟨_, _, hcomma⟩ := h _ hmem
  hcomma rfl

theorem PlainText.last_not_blank {cs : List Char} (h : PlainText cs) : ∀ c ∈ cs.getLast?, isBlank c = false :=
  fun c hc => (h c (List.mem_of_getLast? hc)).1

theorem PlainText.trimBlanks_eq {cs : List Char} (h : PlainText cs) : trimBlanks cs = cs :=
  trimBlanks_eq_self cs (fun c hc => (h c (List.mem_of_head? hc)).1) h.last_not_blank

theorem hexChar_plain : ∀ n < 16, isBlank (hexChar n) = false ∧ hexChar n ≠ ';' ∧ hexChar n ≠ ',' := by decide

theorem printByte_plain (b : Byte) : PlainText (printByte b) := by
  have hlt : b.toNat < 256 := b.isLt
  have hhigh := hexChar_plain (b.toNat / 16) (by omega)
  have hlow := hexChar_plain (b.toNat % 16) (by omega)
  simp only [PlainText, printByte, List.forall_mem_cons, List.not_mem_nil, false_imp_iff, implies_true, and_true]
  exact ⟨by decide, by decide, hhigh, hlow⟩

theorem decimal_plain (ds : List (Fin 10)) : PlainText (ds.map fun d => Char.ofNat (48 + d.val)) := by
  intro c hc
  obtain ⟨d, -, rfl⟩ := List.mem_map.mp hc
  obtain ⟨hblank, hsemi, hcomma, -⟩ := digitChar_plain d
  exact ⟨hblank, hsemi, hcomma⟩

end PlainTexts

/-! ## A mnemonic and its operands -/

section Lines

theorem trimBlanks_cons_blank (cs : List Char) : trimBlanks (' ' :: cs) = trimBlanks cs := by
  have hblank : isBlank ' ' = true := by decide
  rw [trimBlanks, List.dropWhile_cons_of_pos hblank, ← trimBlanks]

/-- A mnemonic, a blank and an operand text that ends the line: nothing is cut off, and the first word is the mnemonic. -/
theorem line_word_and_rest (word o : List Char) (hword : PlainText word) (hne : word ≠ []) (hsemi : ';' ∉ o) (ho : o ≠ [])
    (hlast : ∀ c ∈ o.getLast?, isBlank c = false) :
    trimBlanks (stripComment (word ++ ' ' :: o)) = word ++ ' ' :: o ∧
    (word ++ ' ' :: o).takeWhile (fun c => !isBlank c) = word ∧
    (word ++ ' ' :: o).dropWhile (fun c => !isBlank c) = ' ' :: o := by
  have hblank : isBlank ' ' = true := by decide
  have hword' : ∀ c ∈ word, (!isBlank c) = true := fun c hc => by rw [(hword c hc).1, Bool.not_false]
  refine ⟨?_, ?_, ?_⟩
  · rw [stripComment_eq_self _ (by simp [hword.no_semicolon, hsemi])]
    apply trimBlanks_eq_self
    · rw [List.head?_append_of_ne_nil _ hne]
      exact fun c hc => (hword c (List.mem_of_head? hc)).1
    · rwa [List.append_cons, List.getLast?_append_of_ne_nil _ ho]
  · rw [List.takeWhile_append_of_pos hword', List.takeWhile_cons_of_neg (by simp [hblank]), List.append_nil]
  · rw [List.dropWhile_append_of_pos hword', List.dropWhile_cons_of_neg (by simp [hblank])]

/-- A line of CONSUME with an operand text. -/
theorem assembleLine_consume (o : List Char) (hsemi : ';' ∉ o) (ho : o ≠ [])
    (hlast : ∀ c ∈ o.getLast?, isBlank c = false) :
    assembleLine (['C', 'O', 'N', 'S', 'U', 'M', 'E', ' '] ++ o) = assembleConsume (operandTexts (' ' :: o)) := by
  obtain ⟨htext, hword, hrest⟩ :=
    line_word_and_rest ['C', 'O', 'N', 'S', 'U', 'M', 'E'] o (by simp [PlainText, isBlank]) (by decide) hsemi ho hlast
  change assembleLine (['C', 'O', 'N', 'S', 'U', 'M', 'E'] ++ ' ' :: o) = _
  rw [assembleLine, htext, hword, hrest]
  rfl

/-- A line of CONSUMES with an operand text. -/
theorem assembleLine_consumes (o : List Char) (hsemi : ';' ∉ o) (ho : o ≠ [])
    (hlast : ∀ c ∈ o.getLast?, isBlank c = false) :
    assembleLine (['C', 'O', 'N', 'S', 'U', 'M', 'E', 'S', ' '] ++ o) = assembleConsumes (operandTexts (' ' :: o)) := by
  obtain ⟨htext, hword, hrest⟩ :=
    line_word_and_rest ['C', 'O', 'N', 'S', 'U', 'M', 'E', 'S'] o (by simp [PlainText, isBlank]) (by decide) hsemi ho hlast
  change assembleLine (['C', 'O', 'N', 'S', 'U', 'M', 'E', 'S'] ++ ' ' :: o) = _
  rw [assembleLine, htext, hword, hrest]
  rfl

/-- The operands are the pieces between the commas, trimmed. -/
theorem operandTexts_eq (cs : List Char) (h : trimBlanks cs ≠ []) :
    operandTexts cs = (splitAtChar ',' (trimBlanks cs)).map trimBlanks := by
  obtain ⟨c, rest, hcs⟩ := List.exists_cons_of_ne_nil h
  rw [operandTexts, hcs]

/-- A plain text is one operand. -/
theorem operandTexts_plain (o : List Char) (h : PlainText o) (ho : o ≠ []) : operandTexts (' ' :: o) = [o] := by
  have htrim : trimBlanks (' ' :: o) = o := (trimBlanks_cons_blank o).trans h.trimBlanks_eq
  rw [operandTexts_eq _ (by rwa [htrim]), htrim, splitAtChar_eq_singleton ',' o h.no_comma, List.map_singleton,
    h.trimBlanks_eq]

/-- CONSUME with one plain operand is the byte that the operand names, or its error. -/
theorem assembleLine_consume_plain (o : List Char) (h : PlainText o) (ho : o ≠ []) :
    assembleLine (['C', 'O', 'N', 'S', 'U', 'M', 'E', ' '] ++ o) = assembleConsume [o] := by
  rw [assembleLine_consume o h.no_semicolon ho h.last_not_blank, operandTexts_plain o h ho]

theorem assembleConsume_ok (o : List Char) (b : Byte) (h : parseByte o = .ok b) :
    assembleConsume [o] = .ok [commandInput (.consume b)] := by
  simp only [assembleConsume, h]

theorem assembleConsume_error (o : List Char) (e : AsmError) (h : parseByte o = .error e) :
    assembleConsume [o] = .error e := by
  simp only [assembleConsume, h]

end Lines

/-! ## Numbers -/

section Numbers

theorem byteOfNumber_of_le (n : Nat) (h : n ≤ 255) : byteOfNumber n = .ok (BitVec.ofNat 8 n) :=
  if_pos (decide_eq_true h)

theorem byteOfNumber_of_lt (n : Nat) (h : 255 < n) : byteOfNumber n = .error (.outOfRange n) :=
  if_neg (by simp [isByteNumber, h])

/-- Decimal digits name the byte of their number, or are out of range: no digit is the `x` of a hexadecimal number. -/
theorem parseByte_digits (ds : List (Fin 10)) (hne : ds ≠ []) :
    parseByte (ds.map fun d => Char.ofNat (48 + d.val)) = byteOfNumber (ds.foldl (fun acc d => 10 * acc + d.val) 0) := by
  have hx : ∀ cs, (ds.map fun d => Char.ofNat (48 + d.val)) ≠ '0' :: 'x' :: cs := by
    intro cs heq
    have hmem : 'x' ∈ ds.map fun d => Char.ofNat (48 + d.val) := by simp [heq]
    obtain ⟨d, -, hd⟩ := List.mem_map.mp hmem
    obtain ⟨-, -, -, hne_x⟩ := digitChar_plain d
    exact hne_x hd
  rw [parseByte_decimal _ (by simpa using hne) hx, parseDigits_decimal]

end Numbers

/-! ## A printed list of bytes -/

section PrintedLists

theorem printByte_ne_nil (b : Byte) : printByte b ≠ [] := List.cons_ne_nil _ _

theorem printBytes_cons_cons (b c : Byte) (bs : List Byte) :
    printBytes (b :: c :: bs) = printByte b ++ ',' :: ' ' :: printBytes (c :: bs) := by
  simp [printBytes]

theorem splitAtChar_ne_nil (sep : Char) (cs : List Char) : splitAtChar sep cs ≠ [] := by
  cases cs with
  | nil => exact List.cons_ne_nil _ _
  | cons c cs =>
    rw [splitAtChar]
    split
    · exact List.cons_ne_nil _ _
    · split <;> exact List.cons_ne_nil _ _

/-- A blank before the first piece is trimmed off. -/
theorem splitAtChar_cons_blank_trimmed (cs : List Char) :
    (splitAtChar ',' (' ' :: cs)).map trimBlanks = (splitAtChar ',' cs).map trimBlanks := by
  obtain ⟨w, ws, hcs⟩ := List.exists_cons_of_ne_nil (splitAtChar_ne_nil ',' cs)
  rw [splitAtChar, if_neg (by decide), hcs, List.map_cons, List.map_cons, trimBlanks_cons_blank]

theorem head?_printBytes (b : Byte) (bs : List Byte) : (printBytes (b :: bs)).head? = some '0' := by
  cases bs <;> rfl

theorem printBytes_ne_nil (b : Byte) (bs : List Byte) : printBytes (b :: bs) ≠ [] := by
  intro h
  have hhead := head?_printBytes b bs
  rw [h] at hhead
  cases hhead

theorem semicolon_not_mem_printBytes (b : Byte) (bs : List Byte) : ';' ∉ printBytes (b :: bs) := by
  induction bs generalizing b with
  | nil => exact (printByte_plain b).no_semicolon
  | cons c bs ih =>
    rw [printBytes_cons_cons]
    simp [(printByte_plain b).no_semicolon, ih c]

theorem printBytes_last_not_blank (b : Byte) (bs : List Byte) :
    ∀ c ∈ (printBytes (b :: bs)).getLast?, isBlank c = false := by
  induction bs generalizing b with
  | nil => exact (printByte_plain b).last_not_blank
  | cons c bs ih =>
    have hcut : printBytes (b :: c :: bs) = (printByte b ++ [',', ' ']) ++ printBytes (c :: bs) := rfl
    rw [hcut, List.getLast?_append_of_ne_nil _ (printBytes_ne_nil c bs)]
    exact ih c

/-- A printed list that is not empty begins and ends without a blank. -/
theorem trimBlanks_printBytes (b : Byte) (bs : List Byte) :
    trimBlanks (printBytes (b :: bs)) = printBytes (b :: bs) := by
  refine trimBlanks_eq_self _ ?_ (printBytes_last_not_blank b bs)
  rw [head?_printBytes]
  simp [isBlank]

/-- The pieces of a printed list are the printed bytes, in order. -/
theorem splitAtChar_printBytes (b : Byte) (bs : List Byte) :
    (splitAtChar ',' (printBytes (b :: bs))).map trimBlanks = (b :: bs).map printByte := by
  have htrim (b : Byte) : trimBlanks (printByte b) = printByte b := (printByte_plain b).trimBlanks_eq
  have hcomma (b : Byte) : ',' ∉ printByte b := (printByte_plain b).no_comma
  induction bs generalizing b with
  | nil => rw [printBytes, splitAtChar_eq_singleton ',' _ (hcomma b), List.map_singleton, htrim, List.map_singleton]
  | cons c bs ih =>
    rw [printBytes_cons_cons, splitAtChar_append ',' _ _ (hcomma b), List.map_cons, htrim, splitAtChar_cons_blank_trimmed, ih]
    rfl

/-- Printed bytes are read back in order. -/
theorem parseBytes_map_printByte (bs : List Byte) : parseBytes (bs.map printByte) = .ok bs := by
  induction bs with
  | nil => rfl
  | cons b bs ih => rw [List.map_cons, parseBytes, parseByte_printByte, ih]

end PrintedLists

/-! ## The obligations -/

/-- Settles O49 (R58): the pieces between the commas are the printed bytes; with none there is no operand. -/
theorem consumesExpandsInOrder : Obligations.ConsumesExpandsInOrder := by
  intro bs
  cases bs with
  | nil => decide
  | cons b bs =>
    have hne := printBytes_ne_nil b bs
    have htrim : trimBlanks (' ' :: printBytes (b :: bs)) = printBytes (b :: bs) :=
      (trimBlanks_cons_blank _).trans (trimBlanks_printBytes b bs)
    rw [printConsumes, assembleLine_consumes _ (semicolon_not_mem_printBytes b bs) hne (printBytes_last_not_blank b bs),
      operandTexts_eq _ (by rwa [htrim]), htrim,
      splitAtChar_printBytes, assembleConsumes, parseBytes_map_printByte]
    rfl

/-- Settles O48 (R56, R57): the lines without operand are fixed texts; CONSUME has one plain operand, a printed byte or decimal
digits. -/
theorem assemblerInvertsPrinter : Obligations.AssemblerInvertsPrinter := by
  refine ⟨fun i hwf => ?_, fun i hwf => ?_, ⟨constructInput, by decide, rfl⟩, byteOfNumber_of_lt, fun ds n hne hn => ?_⟩
  · cases i with
    | consume b =>
      exact ⟨_, rfl, (assembleLine_consume_plain _ (printByte_plain b) (printByte_ne_nil b)).trans
        (assembleConsume_ok _ b (parseByte_printByte b))⟩
    | nop => exact ⟨_, rfl, by decide⟩
    | reset => exact ⟨_, rfl, by decide⟩
    | finalize => exact ⟨_, rfl, by decide⟩
    | blockSize => exact ⟨_, rfl, by decide⟩
    | codeSize => exact ⟨_, rfl, by decide⟩
    | reserved6 => cases hwf
    | reserved7 => cases hwf
  · cases i with
    | reserved6 => rfl
    | reserved7 => rfl
    | _ => cases hwf
  · have hparse := parseByte_digits ds hne
    rw [← hn] at hparse
    rw [assembleLine_consume_plain _ (decimal_plain ds) (by simpa using hne)]
    split
    next hle => exact assembleConsume_ok _ _ (hparse.trans (byteOfNumber_of_le n hle))
    next hgt => exact assembleConsume_error _ _ (hparse.trans (byteOfNumber_of_lt n (Nat.lt_of_not_le hgt)))

end Sys2Proof.Machine
